-- ==== Sys2Proof/Word.lean ====
section
/-! DEFINITION. The word types of the core: one sample or bit, one byte. Every quantity of the core is an
unsigned integer (00_scope.md R10), so there is no signed type. -/

namespace Sys2Proof

/-- One sample, data bit, parity bit or stop bit (30_encoding.md R61, R66). -/
abbrev Bit := BitVec 1

/-- One byte of the wire and of the telegram buffer (20_memory.md R46). -/
abbrev Byte := BitVec 8

end Sys2Proof
end

