-- ==== Sys2Proof/Config.lean ====
section
/-! DEFINITION. What is fixed for a session (00_scope.md R5, R6), the constants of 00_scope.md R7, and the one
free value of the model (93_implementation_defined.md I3). -/

namespace Sys2Proof

/-- The configuration of a session: `n` is `N`, the samples per symbol (00_scope.md R5), and
`dtFailKeepsGeneric` is `DT_FAIL_KEEPS_GENERIC` (R6). -/
structure Cfg where
  n : Nat
  dtFailKeepsGeneric : Bool
  deriving DecidableEq, Repr

/-- The default configuration: N = 10 (00_scope.md R5), a failed date-time decode is discarded (R6). -/
def Cfg.defaults : Cfg := { n := 10, dtFailKeepsGeneric := false }

/-- The legal range of `N` (00_scope.md R5); both values of the policy are legal (10_state.md R32). -/
abbrev Cfg.Legal (c : Cfg) : Prop := 1 ≤ c.n ∧ c.n ≤ 255

namespace Config

/-- START, at offsets 0 and 3 of a telegram (30_encoding.md R69). -/
def startChar : Byte := 0x68#8

/-- STOP, at offset 5+L of a telegram (30_encoding.md R69). -/
def stopChar : Byte := 0x16#8

/-- The smallest legal length byte (30_encoding.md R73). -/
def minLength : Nat := 3

/-- The capacity of the telegram buffer, 6 + 255 bytes (20_memory.md R46). -/
def bufCapacity : Nat := 261

/-- The data bits of a byte-frame (42_byte_assembler.md R113). -/
def dataBits : Nat := 10

/-- The longest payload, 255 - 3 bytes (30_encoding.md R76). -/
def maxPayload : Nat := 252

/-- The shortest payload a date-time decode takes (44_interpreter.md R139). -/
def minDateTimePayload : Nat := 7

/-- What a cell of FR_BUF at or above FR_POS holds: any value (93_implementation_defined.md I3). No body, so no
proof can see it; no rule reads such a cell (20_memory.md R48). Log entry 9. -/
opaque unwrittenCell : Nat → Byte

end Config

end Sys2Proof
end

