-- ==== Sys2Proof/Machine/Flags.lean ====
section
/-! DEFINITION. The tests and sums the rules decide on. The core has no flag that lasts between steps (10_state.md
R33); these are the conditions a step computes and uses at once. -/

namespace Sys2Proof.Machine

/-- `popcount(v)` of a byte (00_scope.md R10). -/
def popcount (v : Byte) : Nat := ((List.range 8).map fun i => (v.getLsbD i).toNat).sum

/-- The majority vote: 1 exactly when `2*ones > N`, a tie gives 0 (41_bitslicer.md R101). -/
def majority (ones n : Nat) : Bit := if 2 * ones > n then 1#1 else 0#1

/-- The start symbol is confirmed exactly when `2*ones < N`, a tie is not (41_bitslicer.md R103). -/
def startConfirmed (ones n : Nat) : Bool := decide (2 * ones < n)

/-- `last`: the sample being consumed is the Nth of its symbol (30_encoding.md R85). -/
def lastSample (cnt n : Nat) : Bool := decide (cnt + 1 = n)

/-- The parity test fails: `popcount(B) + p` is odd (42_byte_assembler.md R116). -/
def parityOdd (d : Byte) (p : Bit) : Bool := decide ((popcount d + p.toNat) % 2 = 1)

/-- The parity bit that passes for a payload byte, `popcount(B) mod 2` (30_encoding.md R67, R83). -/
def parityBit (d : Byte) : Bit := BitVec.ofNat 1 (popcount d)

/-- The unsigned 8-bit sum of bytes, mod 256 (30_encoding.md R72). -/
def sumMod256 (bs : List Byte) : Byte := BitVec.ofNat 8 (bs.map BitVec.toNat).sum

end Sys2Proof.Machine
end

