-- ==== Sys2Proof/Syntax.lean ====
section
/-! DEFINITION. The records, diagnostics and causes of the core as data (30_encoding.md R78 to R84), and `Instr`:
one constructor for each of the 25 rows of spec/opcode_table.json (30_encoding.md R90). -/

namespace Sys2Proof

/-- A generic telegram record (30_encoding.md R78). -/
structure Generic where
  sequenceNumber : BitVec 4
  address1 : Byte
  address2 : Byte
  payload : List Byte
  checksum : Byte
  deriving DecidableEq, Repr

/-- A date-time record (30_encoding.md R79). -/
structure DateTime where
  second : BitVec 6
  minute : BitVec 8
  hour : BitVec 7
  dstFlag : BitVec 1
  dayOfWeek : BitVec 3
  dayOfMonth : BitVec 5
  month : BitVec 8
  year : BitVec 12
  deriving DecidableEq, Repr

/-- A record of OUT_REC and LOG: the tagged union of 30_encoding.md R81. -/
inductive Record where
  | generic (t : Generic)
  | dateTime (d : DateTime)
  deriving DecidableEq, Repr

/-- The four error kinds (60_exceptions.md R148). -/
inductive ErrorKind where
  | bitSync
  | framing
  | frameGrammar
  | payloadFormat
  deriving DecidableEq, Repr

/-- The causes of an error, in the order of the table of 30_encoding.md R83. -/
inductive Cause where
  | startNotConfirmed
  | wrongStopBit
  | wrongParity
  | wrongStart
  | lengthMismatch
  | lengthTooShort
  | wrongRepeatStart
  | wrongChecksum
  | wrongStopChar
  | payloadTooShort
  | leadingNonzero
  deriving DecidableEq, Repr

/-- A diagnostic record (30_encoding.md R84). -/
structure Diag where
  kind : BitVec 2
  code : BitVec 4
  expected : Byte
  actual : Byte
  pos : BitVec 9
  deriving DecidableEq, Repr

/-- The slicer rows of the opcode table (30_encoding.md R85). -/
inductive SlicerRow where
  | searchIdle
  | searchStart
  | confirmAcc
  | confirmOk
  | confirmFail
  | sampleAcc
  | sampleDecide
  | reserved11
  deriving DecidableEq, Repr

/-- The assembler rows chosen by BA_N (30_encoding.md R86). -/
inductive AssemblerRow where
  | push
  | complete
  deriving DecidableEq, Repr

/-- The assembler rows chosen by the ten data bits of a complete byte-frame (30_encoding.md R86). -/
inductive CompletionRow where
  | failStop
  | failParity
  | ok
  deriving DecidableEq, Repr

/-- The framer rows, one a position class (30_encoding.md R86). -/
inductive FramerRow where
  | p1
  | p2
  | p3
  | p4
  | body
  | csum
  | stop
  deriving DecidableEq, Repr

/-- The interpreter rows (30_encoding.md R86). -/
inductive InterpreterRow where
  | zeroAddr
  | nonzeroAddr
  deriving DecidableEq, Repr

/-- One constructor for each row of spec/opcode_table.json, in the table's order. The operands are what the row
acts on: `x` the sample, `b` the delivered bit, `p` and `d` the parity bit and payload byte of a complete
byte-frame, `v` the verified byte, `t` the completed telegram. NOP and RESET keep the bits they ignore, so that
each of the eight operation words is one instruction (30_encoding.md R65; log entry 12). -/
inductive Instr where
  | nop (x : Bit)
  | ingest (x : Bit)
  | reset (valid x : Bit)
  | searchIdle
  | searchStart
  | confirmAcc (x : Bit)
  | confirmOk (x : Bit)
  | confirmFail (x : Bit)
  | sampleAcc (x : Bit)
  | sampleDecide (x : Bit)
  | slicerReserved11 (x : Bit)
  | baPush (b : Bit)
  | baComplete (b : Bit)
  | baFailStop (p : Bit) (d : Byte)
  | baFailParity (p : Bit) (d : Byte)
  | baOk (p : Bit) (d : Byte)
  | frP1 (v : Byte)
  | frP2 (v : Byte)
  | frP3 (v : Byte)
  | frP4 (v : Byte)
  | frBody (v : Byte)
  | frCsum (v : Byte)
  | frStop (v : Byte)
  | zeroAddr (t : Generic)
  | nonzeroAddr (t : Generic)
  deriving DecidableEq, Repr

end Sys2Proof
end

