-- ==== Sys2Proof/WellFormed.lean ====
section
/-! DEFINITION. Which instructions the selectors of 30_encoding.md R86 can name: the operand types leave open only
the parity of a complete byte-frame and the addresses and length of a completed telegram. -/

namespace Sys2Proof

/-- A generic record holds at most 252 payload bytes (30_encoding.md R78). -/
def Generic.wellFormed (t : Generic) : Bool := decide (t.payload.length ≤ Config.maxPayload)

/-- Both address bytes are 0 (30_encoding.md R86, 44_interpreter.md R137). -/
def Generic.addressesZero (t : Generic) : Bool := decide (t.address1 = 0#8) && decide (t.address2 = 0#8)

/-- An instruction whose operands its row's selector admits (30_encoding.md R85, R86). -/
def Instr.wellFormed : Instr → Bool
  | .nop _ | .ingest _ | .reset _ _ => true
  | .searchIdle | .searchStart => true
  | .confirmAcc _ | .confirmOk _ | .confirmFail _ => true
  | .sampleAcc _ | .sampleDecide _ | .slicerReserved11 _ => true
  | .baPush _ | .baComplete _ | .baFailStop _ _ => true
  | .baFailParity p d => Machine.parityOdd d p
  | .baOk p d => !Machine.parityOdd d p
  | .frP1 _ | .frP2 _ | .frP3 _ | .frP4 _ | .frBody _ | .frCsum _ | .frStop _ => true
  | .zeroAddr t => t.addressesZero && t.wellFormed
  | .nonzeroAddr t => !t.addressesZero && t.wellFormed

end Sys2Proof
end

