-- ==== Sys2Proof/Decode.lean ====
section
/-! DEFINITION. How each row of the opcode table is told from the others (30_encoding.md R90): the operation word
by op[2:1] (R65), the slicer transition by R85, the assembler, framer and interpreter transitions by R86. Decoding
is total and rejects by name the selectors no rule gives a class; the encoder follows. -/

namespace Sys2Proof

/-- The operation word `{rst, valid, sample}` (30_encoding.md R61 to R65): all eight words are defined. -/
def decodeOp (w : BitVec 3) : Instr :=
  let rst := w.extractLsb' 2 1
  let valid := w.extractLsb' 1 1
  let sample := w.extractLsb' 0 1
  if rst = 1#1 then .reset valid sample
  else if valid = 1#1 then .ingest sample
  else .nop sample

/-- The slicer row for the selector `{SL_STATE, x}`, `last`, and whether `2*ones' < N` (30_encoding.md R85). -/
def slicerRow (sel : BitVec 3) (last confirmed : Bool) : SlicerRow :=
  let state := sel.extractLsb' 1 2
  let x := sel.extractLsb' 0 1
  if state = 0b00#2 then (if x = 1#1 then .searchIdle else .searchStart)
  else if state = 0b01#2 then
    (if last then (if confirmed then .confirmOk else .confirmFail) else .confirmAcc)
  else if state = 0b10#2 then (if last then .sampleDecide else .sampleAcc)
  else .reserved11

/-- The assembler row for BA_N before the push: 0 to 8 push, 9 completes, no rule names another value
(30_encoding.md R86; log entry 8). -/
def assemblerRow (n : BitVec 4) : Option AssemblerRow :=
  if n.toNat ≤ 8 then some .push
  else if n.toNat = 9 then some .complete
  else none

/-- The payload byte of ten data bits (30_encoding.md R67). -/
def payloadOf (bits : BitVec 10) : Byte := bits.extractLsb' 0 8

/-- The parity bit of ten data bits (30_encoding.md R67). -/
def parityOf (bits : BitVec 10) : Bit := bits.extractLsb' 8 1

/-- The stop bit of ten data bits (30_encoding.md R67). -/
def stopOf (bits : BitVec 10) : Bit := bits.extractLsb' 9 1

/-- The completion row for the ten data bits: the stop bit first, then the parity (30_encoding.md R86,
42_byte_assembler.md R117). -/
def completionRow (bits : BitVec 10) : CompletionRow :=
  if stopOf bits = 0#1 then .failStop
  else if Machine.parityOdd (payloadOf bits) (parityOf bits) then .failParity
  else .ok

/-- The framer row for position `p` and, from p = 5 on, length byte `l` (30_encoding.md R86); no rule names a
position beyond 6+L (43_telegram_framer.md R133; log entry 8). -/
def framerRow (p l : Nat) : Option FramerRow :=
  if p = 1 then some .p1
  else if p = 2 then some .p2
  else if p = 3 then some .p3
  else if p = 4 then some .p4
  else if 5 ≤ p ∧ p ≤ 4 + l then some .body
  else if p = 5 + l then some .csum
  else if p = 6 + l then some .stop
  else none

/-- The interpreter row: both address bytes zero or not (30_encoding.md R86, 44_interpreter.md R137). -/
def interpreterRow (t : Generic) : InterpreterRow :=
  if t.addressesZero then .zeroAddr else .nonzeroAddr

/-- The instruction a slicer row is, for the sample `x`. -/
def SlicerRow.instr (x : Bit) : SlicerRow → Instr
  | .searchIdle => .searchIdle
  | .searchStart => .searchStart
  | .confirmAcc => .confirmAcc x
  | .confirmOk => .confirmOk x
  | .confirmFail => .confirmFail x
  | .sampleAcc => .sampleAcc x
  | .sampleDecide => .sampleDecide x
  | .reserved11 => .slicerReserved11 x

/-- The instruction an assembler row is, for the delivered bit `b`. -/
def AssemblerRow.instr (b : Bit) : AssemblerRow → Instr
  | .push => .baPush b
  | .complete => .baComplete b

/-- The instruction a completion row is, for the ten data bits. -/
def CompletionRow.instr (bits : BitVec 10) : CompletionRow → Instr
  | .failStop => .baFailStop (parityOf bits) (payloadOf bits)
  | .failParity => .baFailParity (parityOf bits) (payloadOf bits)
  | .ok => .baOk (parityOf bits) (payloadOf bits)

/-- The instruction a framer row is, for the verified byte `v`. -/
def FramerRow.instr (v : Byte) : FramerRow → Instr
  | .p1 => .frP1 v
  | .p2 => .frP2 v
  | .p3 => .frP3 v
  | .p4 => .frP4 v
  | .body => .frBody v
  | .csum => .frCsum v
  | .stop => .frStop v

/-- The instruction an interpreter row is, for the completed telegram `t`. -/
def InterpreterRow.instr (t : Generic) : InterpreterRow → Instr
  | .zeroAddr => .zeroAddr t
  | .nonzeroAddr => .nonzeroAddr t

/-- A word of the opcode table at its level, with what its selector reads beside the word (30_encoding.md R61,
R85, R86). -/
inductive TableWord where
  | operation (w : BitVec 3)
  | slicer (sel : BitVec 3) (last confirmed : Bool)
  | assembler (n : BitVec 4) (b : Bit)
  | completion (bits : BitVec 10)
  | framer (p l : Nat) (v : Byte)
  | interpreter (t : Generic)
  deriving DecidableEq, Repr

/-- Why the decoder refuses a word: no rule gives the selector a class (log entry 8). -/
inductive Reject where
  | assemblerIndex (n : BitVec 4)
  | framerPosition (p l : Nat)
  | payloadTooLong
  deriving DecidableEq, Repr

/-- The decoder of every level (30_encoding.md R90). -/
def decode : TableWord → Except Reject Instr
  | .operation w => .ok (decodeOp w)
  | .slicer sel last confirmed => .ok ((slicerRow sel last confirmed).instr (sel.extractLsb' 0 1))
  | .assembler n b =>
    match assemblerRow n with
    | some r => .ok (r.instr b)
    | none => .error (.assemblerIndex n)
  | .completion bits => .ok ((completionRow bits).instr bits)
  | .framer p l v =>
    match framerRow p l with
    | some r => .ok (r.instr v)
    | none => .error (.framerPosition p l)
  | .interpreter t => if t.wellFormed then .ok ((interpreterRow t).instr t) else .error .payloadTooLong

/-- The word of an instruction, from the same tables (30_encoding.md R62 to R64, R85, R86). A row whose selector
admits several words (BA_N 0 to 8, a position of the body) gets one of them. -/
def encode : Instr → TableWord
  | .nop x => .operation (0b00#2 ++ x)
  | .ingest x => .operation (0b01#2 ++ x)
  | .reset v x => .operation (0b1#1 ++ v ++ x)
  | .searchIdle => .slicer (0b00#2 ++ 1#1) false false
  | .searchStart => .slicer (0b00#2 ++ 0#1) false false
  | .confirmAcc x => .slicer (0b01#2 ++ x) false false
  | .confirmOk x => .slicer (0b01#2 ++ x) true true
  | .confirmFail x => .slicer (0b01#2 ++ x) true false
  | .sampleAcc x => .slicer (0b10#2 ++ x) false false
  | .sampleDecide x => .slicer (0b10#2 ++ x) true false
  | .slicerReserved11 x => .slicer (0b11#2 ++ x) false false
  | .baPush b => .assembler 0b0000#4 b
  | .baComplete b => .assembler 0b1001#4 b
  | .baFailStop p d => .completion (0b0#1 ++ p ++ d)
  | .baFailParity p d => .completion (0b1#1 ++ p ++ d)
  | .baOk p d => .completion (0b1#1 ++ p ++ d)
  | .frP1 v => .framer 1 Config.minLength v
  | .frP2 v => .framer 2 Config.minLength v
  | .frP3 v => .framer 3 Config.minLength v
  | .frP4 v => .framer 4 Config.minLength v
  | .frBody v => .framer 5 Config.minLength v
  | .frCsum v => .framer (5 + Config.minLength) Config.minLength v
  | .frStop v => .framer (6 + Config.minLength) Config.minLength v
  | .zeroAddr t => .interpreter t
  | .nonzeroAddr t => .interpreter t

/-- The table word a number stands for. Words of different levels share numbers (0b010 is INGEST 0 and also a
CONFIRM selector), so one reading is fixed: one byte below 8 is an operation word, the core's only input
(30_encoding.md R61); one byte from 8 to 15 is the BA_N selector; two bytes are the ten data bits of a complete
byte-frame. Log entry 10. -/
def tableWord (nbits w : Nat) : Option TableWord :=
  if nbits ≤ 8 then
    (if w < 8 then some (.operation (BitVec.ofNat 3 w))
     else if w < 16 then some (.assembler (BitVec.ofNat 4 w) 0#1)
     else none)
  else if nbits ≤ 16 then
    (if w < 1024 then some (.completion (BitVec.ofNat 10 w)) else none)
  else none

/-- The instruction the decoder reads from a table row's bits. -/
def decodeTableWord (nbits w : Nat) : Option Instr :=
  match tableWord nbits w with
  | some word => (decode word).toOption
  | none => none

end Sys2Proof
end

