-- ==== Sys2Proof/Machine/State.lean ====
section
/-! DEFINITION. The state of the core (10_state.md R18, widths and reset values R37), with the configuration of
the session, the outputs of the latest step and the operations the host has presented; the ways a step can stop;
and the machine after reset. -/

namespace Sys2Proof.Machine

/-- The telegram buffer FR_BUF, the bytes at indices 0, 1, and so on (20_memory.md R46, R48). A list has one form
for each content, so equal buffers are equal data. -/
abbrev Memory := List Byte

/-- The buffer holds at most 261 bytes (20_memory.md R46). -/
abbrev Memory.wf (m : Memory) : Prop := m.length ≤ Config.bufCapacity

/-- The four outputs of one step (10_state.md R39 to R42). -/
structure Outputs where
  byte : Option Byte := none
  tg : Option Generic := none
  record : Option Record := none
  diag : Option Diag := none
  deriving DecidableEq, Repr

/-- What the host presents for one step: the operation word (30_encoding.md R61) and, where it asks for one, a new
configuration (70_reset_and_hazards.md R170). -/
structure HostInput where
  op : BitVec 3
  cfg : Option Cfg := none
  deriving DecidableEq, Repr

/-- The state. `slState` to `log` are the registers of 10_state.md R18; `cfg`, `out` and `inputs` are the session's
configuration, the latest outputs and the host's pending operations (log entries 4, 3 and 1). -/
structure State where
  cfg : Cfg
  slState : BitVec 2
  slCnt : BitVec 8
  slOnes : BitVec 8
  baN : BitVec 4
  baBits : BitVec 10
  frPos : BitVec 9
  frBuf : Memory
  log : List Record
  out : Outputs
  inputs : List HostInput
  deriving DecidableEq, Repr

/-- The faults of the model. The core itself has none (60_exceptions.md R154). -/
inductive Fault where
  /-- An append to FR_BUF at an index of 261 or above, which does not exist (20_memory.md R46). Raised by
  `accepted`. Safe; no state of a run from reset raises it (43_telegram_framer.md R133). -/
  | bufferFull
  deriving DecidableEq, Repr

/-- The refusals of the model: where the spec says a model makes no claim. All are safe. -/
inductive Refusal where
  /-- An instruction without a meaning yet. Raised by `exec` only. Safe. -/
  | notModelled (mnemonic : String)
  /-- A configuration with N = 0 or N > 255 (00_scope.md R5, R16). Raised by `step`, `createSession` and
  `startFrom`. Safe. -/
  | configOutOfRange
  /-- A change of configuration in a step that is not a RESET (70_reset_and_hazards.md R170). Raised by `step`.
  Safe. -/
  | configChangeWithoutReset
  /-- A run that would start from a state other than the reset state (70_reset_and_hazards.md R168). Raised by
  `startFrom`. Safe. -/
  | startNotReset
  /-- A state that holds SL_STATE = 11 (30_encoding.md R89). Raised by `step`, whatever the operation, and by
  `execSlicerReserved11`. Safe; no run reaches it (10_state.md R34). -/
  | slicerStateReserved
  /-- A bit delivered while BA_N is 10 to 15, a selector no rule names (30_encoding.md R86). Raised by
  `deliverBit`. Safe; no run reaches it (10_state.md R34). -/
  | assemblerIndexReserved
  /-- A byte at a position beyond 6+L, a selector no rule names (30_encoding.md R86, 43_telegram_framer.md R133).
  Raised by `acceptByte`. Safe; no run reaches it (10_state.md R35). -/
  | framerPositionReserved
  deriving DecidableEq, Repr

/-- The outcome of a step of this machine. -/
abbrev Result := Host.Outcome State Fault Refusal

/-- SL_STATE = SEARCH (10_state.md R22). -/
def slSearch : BitVec 2 := 0b00#2

/-- SL_STATE = CONFIRM (10_state.md R22). -/
def slConfirm : BitVec 2 := 0b01#2

/-- SL_STATE = SAMPLE (10_state.md R22). -/
def slSample : BitVec 2 := 0b10#2

/-- A newly created session with configuration `c`: every register at its reset value and LOG empty
(40_pipeline.md R99, 10_state.md R37). -/
def State.create (c : Cfg) : State where
  cfg := c
  slState := slSearch
  slCnt := 0#8
  slOnes := 0#8
  baN := 0#4
  baBits := 0#10
  frPos := 0#9
  frBuf := []
  log := []
  out := {}
  inputs := []

/-- The machine after reset: a new session with the default configuration (70_reset_and_hazards.md R166, R167). -/
def State.reset : State := State.create Cfg.defaults

end Sys2Proof.Machine
end

