-- ==== Sys2Proof/Machine/Operands.lean ====
section
/-! DEFINITION. The fields a telegram and a date-time payload are read from (30_encoding.md R74 to R80), the codes
of records and diagnostics (R81 to R83), and what a sample adds to a count. -/

namespace Sys2Proof.Machine

/-- The tag of a record: GENERIC = 0, DATETIME = 1 (30_encoding.md R81). -/
def recordTag : Record → BitVec 1
  | .generic _ => 0#1
  | .dateTime _ => 1#1

/-- The kind of a cause (30_encoding.md R83). -/
def causeKind : Cause → ErrorKind
  | .startNotConfirmed => .bitSync
  | .wrongStopBit | .wrongParity => .framing
  | .wrongStart | .lengthMismatch | .lengthTooShort => .frameGrammar
  | .wrongRepeatStart | .wrongChecksum | .wrongStopChar => .frameGrammar
  | .payloadTooShort | .leadingNonzero => .payloadFormat

/-- The number of a kind (30_encoding.md R82). -/
def kindCode : ErrorKind → BitVec 2
  | .bitSync => 0#2
  | .framing => 1#2
  | .frameGrammar => 2#2
  | .payloadFormat => 3#2

/-- The sub-code of a cause (30_encoding.md R83). -/
def causeCode : Cause → BitVec 4
  | .startNotConfirmed => 1#4
  | .wrongStopBit => 1#4
  | .wrongParity => 2#4
  | .wrongStart => 1#4
  | .lengthMismatch => 2#4
  | .lengthTooShort => 3#4
  | .wrongRepeatStart => 4#4
  | .wrongChecksum => 5#4
  | .wrongStopChar => 6#4
  | .payloadTooShort => 1#4
  | .leadingNonzero => 2#4

/-- The diagnostic of a cause (30_encoding.md R84). -/
def diagOf (c : Cause) (expected actual : Byte) (pos : BitVec 9) : Diag :=
  { kind := kindCode (causeKind c), code := causeCode c, expected := expected, actual := actual, pos := pos }

/-- A bit as the byte a diagnostic reports (30_encoding.md R83). -/
def bitAsByte (b : Bit) : Byte := b.setWidth 8

/-- The write `BA_BITS[i] <- b`, every other bit kept (42_byte_assembler.md R113). -/
def setBit (bits : BitVec 10) (i : Nat) (b : Bit) : BitVec 10 :=
  (bits &&& ~~~(1#10 <<< i)) ||| (b.setWidth 10 <<< i)

/-- `sequence_number`, the high nibble of byte 4 (30_encoding.md R74). -/
def sequenceOf (byte4 : Byte) : BitVec 4 := byte4.extractLsb' 4 4

/-- The eight fields from the seven bytes p[0] to p[6] that the date-time decode reads (44_interpreter.md R140). -/
def dateTimeOf (p1 p2 p3 p4 p5 p6 : Byte) : DateTime where
  second := p1.extractLsb' 2 6
  minute := p2
  hour := p3.extractLsb' 0 7
  dstFlag := p3.extractLsb' 7 1
  dayOfWeek := p4.extractLsb' 5 3
  dayOfMonth := p4.extractLsb' 0 5
  month := p5
  year := 2000#12 + p6.setWidth 12

/-- Why a date-time decode fails, with the expected and actual values of the diagnostic. -/
structure DecodeFailure where
  cause : Cause
  expected : Byte
  actual : Byte
  deriving DecidableEq, Repr

/-- The date-time decode of a payload: at least seven bytes, checked first, then a leading byte 0
(44_interpreter.md R139, R140); bytes from p[7] on are ignored (R143). -/
def decodeDateTime (payload : List Byte) : Except DecodeFailure DateTime :=
  match payload with
  | p0 :: p1 :: p2 :: p3 :: p4 :: p5 :: p6 :: _ =>
    if p0 = 0#8 then .ok (dateTimeOf p1 p2 p3 p4 p5 p6)
    else .error { cause := .leadingNonzero, expected := 0#8, actual := p0 }
  | _ =>
    .error { cause := .payloadTooShort, expected := BitVec.ofNat 8 Config.minDateTimePayload,
             actual := BitVec.ofNat 8 payload.length }

end Sys2Proof.Machine
end

