-- ==== Sys2Proof/Machine/Ops.lean ====
section
/-! DEFINITION. The named operations every meaning is written over: outputs, the full reset, the raise action, the
telegram buffer, the log, the slicer and assembler registers, and what the host presents. -/

namespace Sys2Proof.Machine

/-- Every operation starts with all four outputs at none (40_pipeline.md R91). -/
def clearOut (s : State) : State := { s with out := {} }

/-- `emit OUT_BYTE(v)` (10_state.md R39). -/
def emitByte (v : Byte) (s : State) : State := { s with out := { s.out with byte := some v } }

/-- `emit OUT_TG(t)` (10_state.md R40). -/
def emitTelegram (t : Generic) (s : State) : State := { s with out := { s.out with tg := some t } }

/-- `emit OUT_DIAG(d)` (10_state.md R42). -/
def emitDiag (d : Diag) (s : State) : State := { s with out := { s.out with diag := some d } }

/-- The full reset: every register but LOG at its reset value (40_pipeline.md R96). The step's outputs, the
configuration and the host's inputs are not registers and stay. -/
def fullReset (s : State) : State :=
  { s with slState := slSearch, slCnt := 0#8, slOnes := 0#8, baN := 0#4, baBits := 0#10,
           frPos := 0#9, frBuf := [] }

/-- The raise action, the core's one way to take an error (60_exceptions.md R151): kinds 1 and 2 set OUT_DIAG and
reset fully, kind 3 sets OUT_DIAG with pos = 0 and changes no register, kind 0 does neither (its values are not
used). Decoding goes on with the next sample (R154, R156); there is no return operation (R158). -/
def raise (c : Cause) (expected actual : Byte) (pos : BitVec 9) (s : State) : State :=
  match causeKind c with
  | .bitSync => s
  | .framing => fullReset (emitDiag (diagOf c expected actual pos) s)
  | .frameGrammar => fullReset (emitDiag (diagOf c expected actual pos) s)
  | .payloadFormat => emitDiag (diagOf c expected actual 0#9) s

/-- `MemRead(i, 1)` (20_memory.md R48). A cell at or above the end of FR_BUF holds a free value
(93_implementation_defined.md I3; log entry 9). -/
def memRead (i : Nat) (s : State) : Byte := s.frBuf.getD i (Config.unwrittenCell i)

/-- The bytes `FR_BUF[a .. a+n-1]` (00_scope.md R11). -/
def memRange (a n : Nat) (s : State) : List Byte := (List.range n).map fun k => memRead (a + k) s

/-- The length byte L is FR_BUF[1] (10_state.md R28). -/
def lengthByte (s : State) : Nat := (memRead 1 s).toNat

/-- `FR_POS <- FR_POS + 1; FR_BUF <- FR_BUF ++ [v]` (43_telegram_framer.md R121, 20_memory.md R47), none where
the buffer already holds 261 bytes (20_memory.md R46). -/
def memAppend (v : Byte) (s : State) : Option State :=
  if s.frBuf.length < Config.bufCapacity then
    some { s with frPos := s.frPos + 1#9, frBuf := s.frBuf ++ [v] }
  else none

/-- Go on with the byte appended, or stop where there is no cell for it (log entry 9). -/
def accepted (v : Byte) (s : State) (check : State → Result) : Result :=
  match memAppend v s with
  | some s' => check s'
  | none => .fault .bufferFull

/-- `FR_POS <- 0; FR_BUF <- []` (43_telegram_framer.md R131). -/
def memClear (s : State) : State := { s with frPos := 0#9, frBuf := [] }

/-- A record goes to LOG and OUT_REC in the same step (40_pipeline.md R97). -/
def logRecord (r : Record) (s : State) : State :=
  { s with log := s.log ++ [r], out := { s.out with record := some r } }

/-- Write the three slicer registers. -/
def setSlicer (state : BitVec 2) (cnt ones : BitVec 8) (s : State) : State :=
  { s with slState := state, slCnt := cnt, slOnes := ones }

/-- `SL_CNT <- SL_CNT + 1; SL_ONES <- SL_ONES + x` (41_bitslicer.md R103, R105). -/
def countSample (x : Bit) (s : State) : State :=
  { s with slCnt := s.slCnt + 1#8, slOnes := s.slOnes + x.setWidth 8 }

/-- `ones'`, the ones of the current symbol with this sample (30_encoding.md R85). -/
def onesWith (x : Bit) (s : State) : Nat := s.slOnes.toNat + x.toNat

/-- CONFIRM_OK's effect: to SAMPLE with fresh counters and an empty assembler (41_bitslicer.md R103). -/
def startSampling (s : State) : State :=
  { s with slState := slSample, slCnt := 0#8, slOnes := 0#8, baN := 0#4, baBits := 0#10 }

/-- CONFIRM_FAIL's effect on the slicer: back to SEARCH (41_bitslicer.md R103). -/
def backToSearch (s : State) : State := setSlicer slSearch 0#8 0#8 s

/-- `BA_BITS[BA_N] <- b; BA_N <- BA_N + 1` (42_byte_assembler.md R113). -/
def pushBit (b : Bit) (s : State) : State :=
  { s with baBits := setBit s.baBits s.baN.toNat b, baN := s.baN + 1#4 }

/-- The end of a byte-frame: the assembler is emptied and the slicer goes to SEARCH (42_byte_assembler.md R118,
41_bitslicer.md R106). -/
def endByteFrame (s : State) : State := { s with slState := slSearch, baN := 0#4, baBits := 0#10 }

/-- The position a byte would have, FR_POS + 1 (30_encoding.md R84). -/
def nextPos (s : State) : BitVec 9 := s.frPos + 1#9

/-- The generic telegram of the full buffer (43_telegram_framer.md R130). -/
def buildTelegram (s : State) : Generic where
  sequenceNumber := sequenceOf (memRead 4 s)
  address1 := memRead 5 s
  address2 := memRead 6 s
  payload := memRange 7 (lengthByte s - 3) s
  checksum := memRead (4 + lengthByte s) s

/-- The checksum of the counted bytes, offsets 4 to 3+L (43_telegram_framer.md R128). -/
def checksum (s : State) : Byte := sumMod256 (memRange 4 (lengthByte s) s)

/-- The host presents operation words, each without a new configuration (30_encoding.md R61). -/
def present (ops : List (BitVec 3)) (s : State) : State :=
  { s with inputs := s.inputs ++ ops.map fun w => { op := w } }

/-- The operation of this step: the first the host has presented, or the NOP word where it presents none
(log entries 1 and 2). -/
def nextInput (s : State) : HostInput :=
  match s.inputs with
  | [] => { op := 0b000#3 }
  | i :: _ => i

/-- The operation of this step is taken (00_scope.md R8). -/
def takeInput (s : State) : State := { s with inputs := s.inputs.tail }

/-- Whether an operation word is a RESET (30_encoding.md R64). -/
def isResetWord (w : BitVec 3) : Bool := decide (w.extractLsb' 2 1 = 1#1)

/-- What the model refuses of the state before a step: a state that holds SL_STATE = 11, whatever the operation
(30_encoding.md R89, 93_implementation_defined.md I1; log entry 7). -/
def stateRefusal (s : State) : Option Refusal :=
  if s.slState = 0b11#2 then some .slicerStateReserved else none

/-- What the model refuses of the configuration before a step: a configuration out of range (00_scope.md R5, R16), and
a change of configuration without a RESET (70_reset_and_hazards.md R170). Where two of the refusals R16 names apply,
which name is given is the model's choice: the session's own configuration first, then the missing RESET, then the
range of the configuration asked for. DESIGN CHOICE, log entry 15. -/
def inputRefusal (i : HostInput) (s : State) : Option Refusal :=
  if s.cfg.Legal then
    match i.cfg with
    | none => none
    | some c =>
      if c = s.cfg then none
      else if isResetWord i.op then (if c.Legal then none else some .configOutOfRange)
      else some .configChangeWithoutReset
  else some .configOutOfRange

/-- What the model refuses before a step, the state first (log entry 7). -/
def stepRefusal (i : HostInput) (s : State) : Option Refusal :=
  match stateRefusal s with
  | some r => some r
  | none => inputRefusal i s

/-- A new configuration presented with an admitted step holds from the next step on (70_reset_and_hazards.md
R170); the RESET it comes with does not read it. -/
def latchConfig (i : HostInput) (s : State) : State :=
  match i.cfg with
  | none => s
  | some c => { s with cfg := c }

/-- The operation word `w` stands first among what the host presents. -/
def presentFirst (w : BitVec 3) (s : State) : State := { s with inputs := { op := w } :: s.inputs }

/-- A state whose next INGEST delivers the bit `b` to the assembler with BA_N = n and BA_BITS = bits: the last
sample of a data symbol, all samples equal to `b` (41_bitslicer.md R105). Log entry 10. -/
def armAssembler (n : BitVec 4) (bits : BitVec 10) (b : Bit) (s : State) : State :=
  let before := BitVec.ofNat 8 (s.cfg.n - 1)
  presentFirst (0b01#2 ++ b)
    { s with slState := slSample, slCnt := before, slOnes := if b = 1#1 then before else 0#8,
             baN := n, baBits := bits }

end Sys2Proof.Machine
end

