-- ==== Sys2Proof/Machine/Interpreter.lean ====
section
/-! DEFINITION. The TelegramInterpreter (44_interpreter.md): ZERO_ADDR and NONZERO_ADDR. -/

namespace Sys2Proof.Machine

/-- A failed date-time decode: the diagnostic, and the generic record where the policy keeps it
(44_interpreter.md R139, R141). -/
def failDecode (t : Generic) (f : DecodeFailure) (s : State) : State :=
  let s' := raise f.cause f.expected f.actual 0#9 s
  if s.cfg.dtFailKeepsGeneric then logRecord (.generic t) s' else s'

/-- ZERO_ADDR: the date-time decode (44_interpreter.md R139 to R143). -/
def execZeroAddr (t : Generic) (s : State) : Result :=
  match decodeDateTime t.payload with
  | .ok d => .next (logRecord (.dateTime d) s)
  | .error f => .next (failDecode t f s)

/-- NONZERO_ADDR: the telegram is logged as it is (44_interpreter.md R138). -/
def execNonzeroAddr (t : Generic) (s : State) : Result := .next (logRecord (.generic t) s)

/-- The classification of a completed telegram (44_interpreter.md R137). -/
def interpret (t : Generic) (s : State) : Result :=
  match interpreterRow t with
  | .zeroAddr => execZeroAddr t s
  | .nonzeroAddr => execNonzeroAddr t s

end Sys2Proof.Machine
end

