-- ==== Sys2Proof/Machine/Framer.lean ====
section
/-! DEFINITION. The TelegramFramer (43_telegram_framer.md): each position class appends its byte and then checks
(R121). -/

namespace Sys2Proof.Machine

/-- FR_P1, the start character (43_telegram_framer.md R122). -/
def execFrP1 (v : Byte) (s : State) : Result :=
  accepted v s fun s' =>
    if v = Config.startChar then .next s'
    else .next (raise .wrongStart Config.startChar v 1#9 s')

/-- FR_P2, the length byte: no check (43_telegram_framer.md R123). -/
def execFrP2 (v : Byte) (s : State) : Result := accepted v s fun s' => .next s'

/-- FR_P3, the redundant length, then the minimum length (43_telegram_framer.md R124, R125). -/
def execFrP3 (v : Byte) (s : State) : Result :=
  accepted v s fun s' =>
    if memRead 1 s' ≠ memRead 2 s' then
      .next (raise .lengthMismatch (memRead 1 s') (memRead 2 s') 3#9 s')
    else if lengthByte s' < Config.minLength then
      .next (raise .lengthTooShort (BitVec.ofNat 8 Config.minLength) (memRead 1 s') 3#9 s')
    else .next s'

/-- FR_P4, the repeated start character (43_telegram_framer.md R126). -/
def execFrP4 (v : Byte) (s : State) : Result :=
  accepted v s fun s' =>
    if v = Config.startChar then .next s'
    else .next (raise .wrongRepeatStart Config.startChar v 4#9 s')

/-- FR_BODY, a counted byte: no check (43_telegram_framer.md R127). -/
def execFrBody (v : Byte) (s : State) : Result := accepted v s fun s' => .next s'

/-- FR_CSUM, the checksum (43_telegram_framer.md R128). -/
def execFrCsum (v : Byte) (s : State) : Result :=
  accepted v s fun s' =>
    if v = checksum s' then .next s'
    else .next (raise .wrongChecksum (checksum s') v (BitVec.ofNat 9 (5 + lengthByte s')) s')

/-- FR_STOP, the stop character: build the record, clear, emit it and interpret it in the same step
(43_telegram_framer.md R129 to R131, 40_pipeline.md R94). -/
def execFrStop (v : Byte) (s : State) : Result :=
  accepted v s fun s' =>
    if v = Config.stopChar then
      interpret (buildTelegram s') (emitTelegram (buildTelegram s') (memClear s'))
    else .next (raise .wrongStopChar Config.stopChar v (BitVec.ofNat 9 (6 + lengthByte s')) s')

/-- One verified byte goes to the class of its position p = FR_POS + 1 (43_telegram_framer.md R121,
30_encoding.md R86). -/
def acceptByte (v : Byte) (s : State) : Result :=
  match framerRow (s.frPos.toNat + 1) (lengthByte s) with
  | some .p1 => execFrP1 v s
  | some .p2 => execFrP2 v s
  | some .p3 => execFrP3 v s
  | some .p4 => execFrP4 v s
  | some .body => execFrBody v s
  | some .csum => execFrCsum v s
  | some .stop => execFrStop v s
  | none => .refused .framerPositionReserved

end Sys2Proof.Machine
end

