-- ==== Sys2Proof/Machine/Assembler.lean ====
section
/-! DEFINITION. The ByteAssembler (42_byte_assembler.md). -/

namespace Sys2Proof.Machine

/-- BA_FAIL_STOP: a FramingError WRONG_STOP_BIT (42_byte_assembler.md R115, 60_exceptions.md R150). -/
def execBaFailStop (_p : Bit) (_d : Byte) (s : State) : Result :=
  .next (raise .wrongStopBit 1#8 0#8 (nextPos s) s)

/-- BA_FAIL_PARITY: a FramingError WRONG_PARITY (42_byte_assembler.md R116, 60_exceptions.md R150). -/
def execBaFailParity (p : Bit) (d : Byte) (s : State) : Result :=
  .next (raise .wrongParity (bitAsByte (parityBit d)) (bitAsByte p) (nextPos s) s)

/-- BA_OK: the byte-frame ends, the byte goes on OUT_BYTE and to the framer (42_byte_assembler.md R116, R118,
R119, 40_pipeline.md R94). -/
def execBaOk (_p : Bit) (d : Byte) (s : State) : Result := acceptByte d (emitByte d (endByteFrame s))

/-- BA_PUSH: one of the first nine data bits (42_byte_assembler.md R113). -/
def execBaPush (b : Bit) (s : State) : Result := .next (pushBit b s)

/-- BA_COMPLETE: the tenth data bit, the split, and the stop bit checked before the parity (42_byte_assembler.md
R113, R114, R117). -/
def execBaComplete (b : Bit) (s : State) : Result :=
  let s' := pushBit b s
  match completionRow s'.baBits with
  | .failStop => execBaFailStop (parityOf s'.baBits) (payloadOf s'.baBits) s'
  | .failParity => execBaFailParity (parityOf s'.baBits) (payloadOf s'.baBits) s'
  | .ok => execBaOk (parityOf s'.baBits) (payloadOf s'.baBits) s'

/-- A delivered bit goes to the row BA_N chooses (30_encoding.md R86). -/
def deliverBit (b : Bit) (s : State) : Result :=
  match assemblerRow s.baN with
  | some .push => execBaPush b s
  | some .complete => execBaComplete b s
  | none => .refused .assemblerIndexReserved

end Sys2Proof.Machine
end

