-- ==== Sys2Proof/Machine/Slicer.lean ====
section
/-! DEFINITION. The BitSlicer (41_bitslicer.md). -/

namespace Sys2Proof.Machine

/-- SEARCH_IDLE: a 1 sample in SEARCH changes nothing (41_bitslicer.md R102). -/
def execSearchIdle (s : State) : Result := .next s

/-- CONFIRM_FAIL: a BitSyncFailure, silent, only the slicer goes back to SEARCH (41_bitslicer.md R103, R107). -/
def execConfirmFail (_x : Bit) (s : State) : Result :=
  .next (raise .startNotConfirmed 0#8 0#8 0#9 (backToSearch s))

/-- CONFIRM_OK: the start symbol is confirmed (41_bitslicer.md R103). -/
def execConfirmOk (_x : Bit) (s : State) : Result := .next (startSampling s)

/-- `confirm_decide()` on the counted ones (41_bitslicer.md R103). -/
def confirmDecide (s : State) : Result :=
  if startConfirmed s.slOnes.toNat s.cfg.n then execConfirmOk 0#1 s else execConfirmFail 0#1 s

/-- SEARCH_START: this 0 sample is sample 1 of the start symbol; with N = 1 the symbol is complete at once
(41_bitslicer.md R102, R108). -/
def execSearchStart (s : State) : Result :=
  if s.cfg.n = 1 then confirmDecide (setSlicer s.slState 1#8 0#8 s)
  else .next (setSlicer slConfirm 1#8 0#8 s)

/-- CONFIRM_ACC: count one sample of the start symbol (41_bitslicer.md R103). -/
def execConfirmAcc (x : Bit) (s : State) : Result := .next (countSample x s)

/-- SAMPLE_ACC: count one sample of a data symbol (41_bitslicer.md R105). -/
def execSampleAcc (x : Bit) (s : State) : Result := .next (countSample x s)

/-- SAMPLE_DECIDE: the last sample of a data symbol; the majority bit goes to the assembler in the same step
(41_bitslicer.md R105, R101). -/
def execSampleDecide (x : Bit) (s : State) : Result :=
  deliverBit (majority (onesWith x s) s.cfg.n) (setSlicer s.slState 0#8 0#8 s)

/-- SLICER_RESERVED_11: a model refuses a state that holds SL_STATE = 11 (30_encoding.md R89; log entry 7). -/
def execSlicerReserved11 (_x : Bit) (_s : State) : Result := .refused .slicerStateReserved

/-- The row the slicer takes for a sample (30_encoding.md R85). -/
def slicerSelect (x : Bit) (s : State) : SlicerRow :=
  slicerRow (s.slState ++ x) (lastSample s.slCnt.toNat s.cfg.n) (startConfirmed (onesWith x s) s.cfg.n)

/-- One sample through the slicer and on through the layers below it (40_pipeline.md R94, R98). -/
def runSample (x : Bit) (s : State) : Result :=
  match slicerSelect x s with
  | .searchIdle => execSearchIdle s
  | .searchStart => execSearchStart s
  | .confirmAcc => execConfirmAcc x s
  | .confirmOk => execConfirmOk x s
  | .confirmFail => execConfirmFail x s
  | .sampleAcc => execSampleAcc x s
  | .sampleDecide => execSampleDecide x s
  | .reserved11 => execSlicerReserved11 x s

end Sys2Proof.Machine
end

