-- ==== Sys2Proof/Machine/Pipeline.lean ====
section
/-! DEFINITION. The three operations the input word selects (40_pipeline.md R91 to R94). -/

namespace Sys2Proof.Machine

/-- NOP: every register holds, every output is none (40_pipeline.md R92). -/
def execNop (_x : Bit) (s : State) : Result := .next (clearOut s)

/-- INGEST: one sample through the four layers (40_pipeline.md R94). -/
def execIngest (x : Bit) (s : State) : Result := runSample x (clearOut s)

/-- RESET: the full reset, no diagnostic, LOG kept, the sample of the word dropped (40_pipeline.md R93,
70_reset_and_hazards.md R177). -/
def execReset (_valid _x : Bit) (s : State) : Result := .next (fullReset (clearOut s))

end Sys2Proof.Machine
end

