-- ==== Sys2Proof/Machine/Dispatch.lean ====
section
/-! DEFINITION. The meaning of each row of the opcode table. -/

namespace Sys2Proof.Machine

def exec (i : Instr) (s : State) : Host.Outcome State Fault Refusal :=
  match i with
  -- the operation words (40_pipeline.md)
  | .nop x => Sys2Proof.Machine.execNop x s
  | .ingest x => Sys2Proof.Machine.execIngest x s
  | .reset v x => Sys2Proof.Machine.execReset v x s
  -- the slicer transitions (41_bitslicer.md)
  | .searchIdle => Sys2Proof.Machine.execSearchIdle s
  | .searchStart => Sys2Proof.Machine.execSearchStart s
  | .confirmAcc x => Sys2Proof.Machine.execConfirmAcc x s
  | .confirmOk x => Sys2Proof.Machine.execConfirmOk x s
  | .confirmFail x => Sys2Proof.Machine.execConfirmFail x s
  | .sampleAcc x => Sys2Proof.Machine.execSampleAcc x s
  | .sampleDecide x => Sys2Proof.Machine.execSampleDecide x s
  | .slicerReserved11 x => Sys2Proof.Machine.execSlicerReserved11 x s
  -- the assembler transitions (42_byte_assembler.md)
  | .baPush b => Sys2Proof.Machine.execBaPush b s
  | .baComplete b => Sys2Proof.Machine.execBaComplete b s
  | .baFailStop p d => Sys2Proof.Machine.execBaFailStop p d s
  | .baFailParity p d => Sys2Proof.Machine.execBaFailParity p d s
  | .baOk p d => Sys2Proof.Machine.execBaOk p d s
  -- the framer transitions (43_telegram_framer.md)
  | .frP1 v => Sys2Proof.Machine.execFrP1 v s
  | .frP2 v => Sys2Proof.Machine.execFrP2 v s
  | .frP3 v => Sys2Proof.Machine.execFrP3 v s
  | .frP4 v => Sys2Proof.Machine.execFrP4 v s
  | .frBody v => Sys2Proof.Machine.execFrBody v s
  | .frCsum v => Sys2Proof.Machine.execFrCsum v s
  | .frStop v => Sys2Proof.Machine.execFrStop v s
  -- the interpreter classes (44_interpreter.md)
  | .zeroAddr t => Sys2Proof.Machine.execZeroAddr t s
  | .nonzeroAddr t => Sys2Proof.Machine.execNonzeroAddr t s

end Sys2Proof.Machine
end

