-- ==== Sys2Proof/Machine/Session.lean ====
section
/-! DEFINITION. How the host begins a run (70_reset_and_hazards.md R166 to R169): it creates a session, or starts
from the reset state. -/

namespace Sys2Proof.Machine

/-- Session creation with a configuration, refused where it is out of range (40_pipeline.md R99, 00_scope.md R5,
93_implementation_defined.md I7). -/
def createSession (c : Cfg) : Result :=
  if c.Legal then .next (State.create c) else .refused .configOutOfRange

/-- A run may start only from the reset state (00_scope.md R16, 70_reset_and_hazards.md R168). Where the configuration
is out of range as well, that is the name given. DESIGN CHOICE, log entry 15. -/
def startFrom (s : State) : Result :=
  if s.cfg.Legal then (if fullReset s = s then .next s else .refused .startNotReset)
  else .refused .configOutOfRange

end Sys2Proof.Machine
end

