-- ==== Sys2Proof/Machine/Stimulus.lean ====
section
/-! DEFINITION. The stimulus notation and the wire form of a telegram: what the host sends (30_encoding.md R66 to
R72, R87). Each form is only its expansion into operation words (R88). -/

namespace Sys2Proof.Machine

/-- `S b`: one INGEST of sample b, the word `01b` (30_encoding.md R87). -/
def opSample (b : Bit) : BitVec 3 := 0b01#2 ++ b

/-- `NOP` (30_encoding.md R87). -/
def opNop : BitVec 3 := 0b000#3

/-- `RESET` (30_encoding.md R87). -/
def opReset : BitVec 3 := 0b100#3

/-- `IDLE k`: k samples of 1 (30_encoding.md R87). -/
def idle (k : Nat) : List (BitVec 3) := List.replicate k (opSample 1#1)

/-- `SYM b`: one clean symbol, N samples of b (30_encoding.md R87). -/
def symbol (n : Nat) (b : Bit) : List (BitVec 3) := List.replicate n (opSample b)

/-- `SYMW c`: a symbol with c ones, the zeros first (30_encoding.md R87). -/
def symbolWithOnes (n c : Nat) : List (BitVec 3) :=
  List.replicate (n - c) (opSample 0#1) ++ List.replicate c (opSample 1#1)

/-- The eight data bits of a byte, least significant first (20_memory.md R53, 30_encoding.md R67). -/
def dataBitsOf (v : Byte) : List Bit := (List.range 8).map fun i => v.extractLsb' i 1

/-- `BYTEX v p t`: a start symbol, the data bits of v, the parity symbol p, the stop symbol t (30_encoding.md
R87). -/
def byteFrameWith (n : Nat) (v : Byte) (p t : Bit) : List (BitVec 3) :=
  symbol n 0#1 ++ ((dataBitsOf v ++ [p, t]).map (symbol n)).flatten

/-- `BYTE v`: the correct byte-frame for v (30_encoding.md R67, R87). -/
def byteFrame (n : Nat) (v : Byte) : List (BitVec 3) := byteFrameWith n v (parityBit v) 1#1

/-- `BYTES [v0, v1, ...]`: byte-frames with nothing between (30_encoding.md R87). -/
def byteFrames (n : Nat) (vs : List Byte) : List (BitVec 3) := (vs.map (byteFrame n)).flatten

/-- The bytes of the telegram with the given byte 4, addresses and payload (30_encoding.md R68 to R72). -/
def telegramBytes (byte4 a1 a2 : Byte) (payload : List Byte) : List Byte :=
  let l : Byte := BitVec.ofNat 8 (payload.length + 3)
  let counted := [byte4, a1, a2] ++ payload
  [Config.startChar, l, l, Config.startChar] ++ counted ++ [sumMod256 counted, Config.stopChar]

end Sys2Proof.Machine
end

