-- ==== Sys2Proof/Machine/Step.lean ====
section
/-! DEFINITION. One step: take the host's next operation, refuse what the spec says a model refuses, run the
decoded instruction (00_scope.md R8, R13, 40_pipeline.md R91). -/

namespace Sys2Proof.Machine

/-- One step of the core. -/
def step (s : State) : Host.Outcome State Fault Refusal :=
  match stepRefusal (nextInput s) s with
  | some r => .refused r
  | none => exec (decodeOp (nextInput s).op) (latchConfig (nextInput s) (takeInput s))

/-- `s` with the instruction of a table word as what the next step runs: an operation word is presented first; for
a BA_N selector or ten complete data bits, the slicer and assembler registers are set so that the next INGEST,
presented first, takes that transition (log entry 10). -/
def State.withFetchWord (s : State) (nbits w : Nat) : State :=
  match tableWord nbits w with
  | some (.operation op) => presentFirst op s
  | some (.assembler n b) => armAssembler n 0#10 b s
  | some (.completion bits) => armAssembler 9#4 (0#1 ++ bits.extractLsb' 0 9) (stopOf bits) s
  | _ => s

end Sys2Proof.Machine
end

