-- ==== Sys2Proof/Safety.lean ====
section
/-! DEFINITION. What a safe run is: the invariants of 10_state.md R34 and R35, and the words the statements use. -/

namespace Sys2Proof.Machine

/-- The slicer and assembler registers between steps (10_state.md R34). -/
abbrev SlicerInv (s : State) : Prop :=
  (s.slState = slSearch → s.slCnt = 0#8 ∧ s.slOnes = 0#8 ∧ s.baN = 0#4 ∧ s.baBits = 0#10) ∧
  (s.slState = slConfirm → 1 ≤ s.slCnt.toNat ∧ s.slCnt.toNat + 1 ≤ s.cfg.n ∧
    s.slOnes.toNat + 1 ≤ s.slCnt.toNat ∧ s.baN = 0#4 ∧ s.baBits = 0#10) ∧
  (s.slState = slSample → s.slCnt.toNat + 1 ≤ s.cfg.n ∧ s.slOnes.toNat ≤ s.slCnt.toNat ∧
    s.baN.toNat ≤ 9 ∧ s.baBits.toNat < 2 ^ s.baN.toNat) ∧
  s.slState ≠ 0b11#2

/-- The framer registers between steps (10_state.md R35), with `L = FR_BUF[1]`. -/
abbrev FramerInv (s : State) : Prop :=
  s.frPos.toNat = s.frBuf.length ∧ s.frBuf.length ≤ 260 ∧
  (1 ≤ s.frBuf.length → memRead 0 s = Config.startChar) ∧
  (3 ≤ s.frBuf.length → memRead 1 s = memRead 2 s ∧ 3 ≤ lengthByte s) ∧
  (4 ≤ s.frBuf.length → memRead 3 s = Config.startChar ∧ s.frBuf.length ≤ 5 + lengthByte s ∧
    (s.frBuf.length = 5 + lengthByte s → memRead (4 + lengthByte s) s = checksum s))

/-- A record as the formats have it: a generic payload of at most 252 bytes (30_encoding.md R78), a year from 2000
to 2255 (R79). -/
def recordFits : Record → Bool
  | .generic t => decide (t.payload.length ≤ 252)
  | .dateTime d => decide (2000 ≤ d.year.toNat) && decide (d.year.toNat ≤ 2255)

/-- Every record of LOG has its format. -/
abbrev LogInv (s : State) : Prop := ∀ r ∈ s.log, recordFits r = true

/-- The invariant of a run: a legal configuration, R34, R35 and the record formats. -/
abbrev Inv (s : State) : Prop := s.cfg.Legal ∧ SlicerInv s ∧ FramerInv s ∧ LogInv s

/-- The host asks for no other configuration in the next step (70_reset_and_hazards.md R170). -/
abbrev NoConfigChange (s : State) : Prop := (nextInput s).cfg = none

/-- The reset state of the registers, with the session's configuration, LOG, pending inputs and the outputs `o`
(10_state.md R37, 40_pipeline.md R96). -/
def resetWith (o : Outputs) (s : State) : State :=
  { State.create s.cfg with log := s.log, inputs := s.inputs, out := o }

/-- The state after a failure that resets fully, with diagnostic `d` (60_exceptions.md R151). -/
def failedWith (d : Diag) (s : State) : State := resetWith { s.out with diag := some d } s

/-- The byte `v` appended to the telegram buffer (43_telegram_framer.md R121). -/
def appended (v : Byte) (s : State) : State :=
  { s with frPos := s.frPos + 1#9, frBuf := s.frBuf ++ [v] }

/-- The record `r` appended to LOG and put on OUT_REC (40_pipeline.md R97). -/
def logged (r : Record) (s : State) : State :=
  { s with log := s.log ++ [r], out := { s.out with record := some r } }

/-- The record the interpreter makes of a telegram, if any (44_interpreter.md R137 to R141). -/
def recordOf (c : Cfg) (t : Generic) : Option Record :=
  if t.address1 = 0#8 ∧ t.address2 = 0#8 then
    match decodeDateTime t.payload with
    | .ok d => some (.dateTime d)
    | .error _ => if c.dtFailKeepsGeneric then some (.generic t) else none
  else some (.generic t)

/-- The same state with older records in front of LOG. -/
def withOlderLog (older : List Record) (s : State) : State := { s with log := older ++ s.log }

/-- A function applied to the next state of an outcome. -/
def mapNext (f : State → State) : Result → Result
  | .next s => .next (f s)
  | .fault r => .fault r
  | .refused r => .refused r

/-- The next state of an outcome, where it is one. -/
def nextState : Result → Option State
  | .next s => some s
  | .fault _ => none
  | .refused _ => none

/-- `k` steps, stopping at the first fault or refusal. -/
def runSteps : Nat → State → Result
  | 0, s => .next s
  | k + 1, s =>
    match step s with
    | .next s' => runSteps k s'
    | .fault r => .fault r
    | .refused r => .refused r

/-- Verified bytes given to the framer one after another, each in a step of its own (42_byte_assembler.md R116,
43_telegram_framer.md R121). -/
def deliverBytes : List Byte → State → Result
  | [], s => .next s
  | v :: vs, s =>
    match exec (.baOk (parityBit v) v) (clearOut s) with
    | .next s' => deliverBytes vs s'
    | .fault r => .fault r
    | .refused r => .refused r

end Sys2Proof.Machine
end

