-- ==== Sys2Proof/Certificates/Slice0/Obligations.lean ====
section
/-! DEFINITION. The statements for the provers, from the numbered rules of spec/. -/

open Sys2Proof Sys2Proof.Machine

/-! Encodings (30_encoding.md). -/

/-- 30_encoding.md R65: each of the eight operation words is one of the three operations, told by op[2:1]. -/
def Obligations.EveryOperationWordDecodes : Prop :=
  ∀ w : BitVec 3,
    (w &&& 0b110#3 = 0b000#3 → decodeOp w = .nop (w.extractLsb' 0 1)) ∧
    (w &&& 0b110#3 = 0b010#3 → decodeOp w = .ingest (w.extractLsb' 0 1)) ∧
    (w &&& 0b100#3 = 0b100#3 → decodeOp w = .reset (w.extractLsb' 1 1) (w.extractLsb' 0 1)) ∧
    (w &&& 0b110#3 = 0b000#3 ∨ w &&& 0b110#3 = 0b010#3 ∨ w &&& 0b100#3 = 0b100#3)

/-- Words written out from the patterns of 30_encoding.md R62 to R64, R67, R85 and R86, one for each family. -/
def Obligations.WordsWrittenFromTheSpecDecode : Prop :=
  decode (.operation 0b011#3) = .ok (.ingest 1#1) ∧
  decode (.operation 0b000#3) = .ok (.nop 0#1) ∧
  decode (.operation 0b110#3) = .ok (.reset 1#1 0#1) ∧
  decode (.slicer 0b000#3 false true) = .ok .searchStart ∧
  decode (.slicer 0b100#3 true false) = .ok (.sampleDecide 0#1) ∧
  decode (.assembler 0b1001#4 1#1) = .ok (.baComplete 1#1) ∧
  decode (.completion 0b1101101000#10) = .ok (.baOk 1#1 0x68#8) ∧
  decode (.framer 10 5 0x75#8) = .ok (.frCsum 0x75#8) ∧
  decode (.interpreter ⟨1#4, 0#8, 0#8, [], 0x10#8⟩) = .ok (.zeroAddr ⟨1#4, 0#8, 0#8, [], 0x10#8⟩)

/-- Decoding the word of a well-formed instruction gives it back, every operand at every value its row admits; the
ignored bits of NOP and RESET are operands by the model's choice (log entry 12). -/
def Obligations.DecodeOfEncodeIsTheInstruction : Prop :=
  ∀ i : Instr, i.wellFormed = true → decode (encode i) = .ok i

/-- Encoding what an operation word decodes to gives the word back. That the ignored bits come back too is the model's
choice, which keeps them as operands of NOP and RESET (log entry 12): to the spec, 30_encoding.md R65, the words 000
and 001 are one operation, and so are 100 to 111. -/
def Obligations.EncodeOfDecodedOperationIsTheWord : Prop :=
  ∀ w : BitVec 3, encode (decodeOp w) = .operation w

/-- 30_encoding.md R86: the row each selector chooses; the classes of a level are disjoint. -/
def Obligations.SelectorsChooseTheRowsOfTheTable : Prop :=
  (∀ n : BitVec 4,
    (assemblerRow n = some .push ↔ n.toNat ≤ 8) ∧ (assemblerRow n = some .complete ↔ n.toNat = 9)) ∧
  (∀ bits : BitVec 10,
    (completionRow bits = .failStop ↔ bits.getLsbD 9 = false) ∧
    (completionRow bits = .failParity ↔ bits.getLsbD 9 = true ∧
      (popcount (payloadOf bits) + (parityOf bits).toNat) % 2 = 1) ∧
    (completionRow bits = .ok ↔ bits.getLsbD 9 = true ∧
      (popcount (payloadOf bits) + (parityOf bits).toNat) % 2 = 0)) ∧
  (∀ p l : Nat,
    (framerRow p l = some .p1 ↔ p = 1) ∧ (framerRow p l = some .p2 ↔ p = 2) ∧
    (framerRow p l = some .p3 ↔ p = 3) ∧ (framerRow p l = some .p4 ↔ p = 4) ∧
    (framerRow p l = some .body ↔ 5 ≤ p ∧ p ≤ 4 + l) ∧
    (framerRow p l = some .csum ↔ p = 5 + l) ∧ (framerRow p l = some .stop ↔ p = 6 + l)) ∧
  (∀ g : Generic,
    (interpreterRow g = .zeroAddr ↔ g.address1 ++ g.address2 = 0x0000#16) ∧
    (interpreterRow g = .nonzeroAddr ↔ g.address1 ++ g.address2 ≠ 0x0000#16))

/-- 30_encoding.md R85: the slicer row for `SL_STATE`, the sample, `last` and `2*ones' < N`. -/
def Obligations.SlicerSelectorFollowsTheTable : Prop :=
  ∀ (s : State) (x : Bit),
    (s.slState = 0b00#2 → x = 1#1 → slicerSelect x s = .searchIdle) ∧
    (s.slState = 0b00#2 → x = 0#1 → slicerSelect x s = .searchStart) ∧
    (s.slState = 0b01#2 → s.slCnt.toNat + 1 ≠ s.cfg.n → slicerSelect x s = .confirmAcc) ∧
    (s.slState = 0b01#2 → s.slCnt.toNat + 1 = s.cfg.n → 2 * (s.slOnes.toNat + x.toNat) < s.cfg.n →
      slicerSelect x s = .confirmOk) ∧
    (s.slState = 0b01#2 → s.slCnt.toNat + 1 = s.cfg.n → s.cfg.n ≤ 2 * (s.slOnes.toNat + x.toNat) →
      slicerSelect x s = .confirmFail) ∧
    (s.slState = 0b10#2 → s.slCnt.toNat + 1 ≠ s.cfg.n → slicerSelect x s = .sampleAcc) ∧
    (s.slState = 0b10#2 → s.slCnt.toNat + 1 = s.cfg.n → slicerSelect x s = .sampleDecide) ∧
    (s.slState = 0b11#2 → slicerSelect x s = .reserved11)

/-- INGEST, with its outputs cleared, is the slicer row its selector chooses; SAMPLE_DECIDE goes on to the assembler
row BA_N chooses, and BA_OK to the framer row the position chooses (40_pipeline.md R94, R98). -/
def Obligations.IngestIsTheChainOfSelectedRows : Prop :=
  (∀ (s : State) (x : Bit),
    exec (.ingest x) s = exec ((slicerSelect x s).instr x) { s with out := ⟨none, none, none, none⟩ }) ∧
  (∀ (s : State) (x : Bit) (r : AssemblerRow), assemblerRow s.baN = some r →
    exec (.sampleDecide x) s =
      exec (r.instr (if 2 * (s.slOnes.toNat + x.toNat) > s.cfg.n then 1#1 else 0#1))
        { s with slCnt := 0#8, slOnes := 0#8 }) ∧
  (∀ (s : State) (p : Bit) (d : Byte) (r : FramerRow),
    framerRow (s.frPos.toNat + 1) (lengthByte s) = some r →
    exec (.baOk p d) s =
      exec (r.instr d) { s with slState := slSearch, baN := 0#4, baBits := 0#10,
                                out := { s.out with byte := some d } })

/-- 30_encoding.md R67: the payload byte, parity bit and stop bit of ten data bits, and the bits of a correct frame
for a byte. -/
def Obligations.DataBitsAreSplitLeastSignificantFirst : Prop :=
  (∀ bits : BitVec 10,
    (payloadOf bits).toNat = (bits.getLsbD 0).toNat + 2 * (bits.getLsbD 1).toNat + 4 * (bits.getLsbD 2).toNat +
      8 * (bits.getLsbD 3).toNat + 16 * (bits.getLsbD 4).toNat + 32 * (bits.getLsbD 5).toNat +
      64 * (bits.getLsbD 6).toNat + 128 * (bits.getLsbD 7).toNat ∧
    (parityOf bits).toNat = (bits.getLsbD 8).toNat ∧ (stopOf bits).toNat = (bits.getLsbD 9).toNat) ∧
  (∀ v : Byte, (parityBit v).toNat = popcount v % 2 ∧
    (∀ i, i < 8 → (dataBitsOf v)[i]? = some (v.extractLsb' i 1)) ∧
    completionRow (1#1 ++ parityBit v ++ v) = .ok ∧ payloadOf (1#1 ++ parityBit v ++ v) = v)

/-- 30_encoding.md R81 to R83: the tag of a record, and the kind and code of each cause. -/
def Obligations.DiagnosticCodesFollowTheTable : Prop :=
  (∀ (g : Generic) (d : DateTime), recordTag (.generic g) = 0#1 ∧ recordTag (.dateTime d) = 1#1) ∧
  ∀ (e a : Byte) (p : BitVec 9),
    diagOf .startNotConfirmed e a p = ⟨0#2, 1#4, e, a, p⟩ ∧
    diagOf .wrongStopBit e a p = ⟨1#2, 1#4, e, a, p⟩ ∧
    diagOf .wrongParity e a p = ⟨1#2, 2#4, e, a, p⟩ ∧
    diagOf .wrongStart e a p = ⟨2#2, 1#4, e, a, p⟩ ∧
    diagOf .lengthMismatch e a p = ⟨2#2, 2#4, e, a, p⟩ ∧
    diagOf .lengthTooShort e a p = ⟨2#2, 3#4, e, a, p⟩ ∧
    diagOf .wrongRepeatStart e a p = ⟨2#2, 4#4, e, a, p⟩ ∧
    diagOf .wrongChecksum e a p = ⟨2#2, 5#4, e, a, p⟩ ∧
    diagOf .wrongStopChar e a p = ⟨2#2, 6#4, e, a, p⟩ ∧
    diagOf .payloadTooShort e a p = ⟨3#2, 1#4, e, a, p⟩ ∧
    diagOf .leadingNonzero e a p = ⟨3#2, 2#4, e, a, p⟩

/-! The operations (40_pipeline.md). -/

/-- 40_pipeline.md R92: NOP holds every register, gives no output, ignores its sample bit, and a NOP before a sample
changes nothing of what the sample does. -/
def Obligations.NopHoldsEveryRegister : Prop :=
  decodeOp 0b000#3 = .nop 0#1 ∧ decodeOp 0b001#3 = .nop 1#1 ∧
  ∀ (s : State) (x : Bit),
    exec (.nop x) s = .next { s with out := ⟨none, none, none, none⟩ } ∧
    ∀ (t : State) (y : Bit), exec (.nop x) s = .next t → exec (.ingest y) t = exec (.ingest y) s

/-- 40_pipeline.md R93: RESET gives the reset state with LOG kept and no output, whatever its two other bits; in the
reset state it changes no register. -/
def Obligations.ResetGivesTheResetState : Prop :=
  (∀ v x : Bit, decodeOp (0b1#1 ++ v ++ x) = .reset v x) ∧
  ∀ (s : State) (v x : Bit),
    exec (.reset v x) s = .next
      { cfg := s.cfg, slState := 0b00#2, slCnt := 0#8, slOnes := 0#8, baN := 0#4, baBits := 0#10,
        frPos := 0#9, frBuf := [], log := s.log, out := ⟨none, none, none, none⟩, inputs := s.inputs } ∧
    (fullReset s = s → exec (.reset v x) s = .next { s with out := ⟨none, none, none, none⟩ })

/-- 10_state.md R37: the reset value of every register, LOG empty at session creation and not changed by a reset. -/
def Obligations.ResetValuesAreTheTable : Prop :=
  (∀ c : Cfg, (State.create c).slState = 0b00#2 ∧ (State.create c).slCnt = 0#8 ∧
    (State.create c).slOnes = 0#8 ∧ (State.create c).baN = 0#4 ∧ (State.create c).baBits = 0#10 ∧
    (State.create c).frPos = 0#9 ∧ (State.create c).frBuf = [] ∧ (State.create c).log = [] ∧
    (State.create c).cfg = c) ∧
  (∀ s : State, fullReset s = { State.create s.cfg with log := s.log, out := s.out, inputs := s.inputs }) ∧
  State.reset.cfg = { n := 10, dtFailKeepsGeneric := false }

/-- A step runs the instruction its operation word decodes to: with a legal configuration, no other one asked for, and
SL_STATE not 11, it is `exec` of that instruction once the operation is taken. The model's choices: with none
presented the word is `000` (log entries 1 and 2), and asking for the configuration that holds is no change (log
entry 5). -/
def Obligations.StepRunsTheDecodedOperation : Prop :=
  ∀ s : State, s.slState ≠ 0b11#2 → s.cfg.Legal →
    (∀ (w : BitVec 3) (rest : List HostInput), s.inputs = { op := w } :: rest →
      step s = exec (decodeOp w) { s with inputs := rest }) ∧
    (∀ (w : BitVec 3) (rest : List HostInput), s.inputs = { op := w, cfg := some s.cfg } :: rest →
      step s = exec (decodeOp w) { s with inputs := rest }) ∧
    (s.inputs = [] → step s = exec (.nop 0#1) s)

/-- 70_reset_and_hazards.md R170 and 00_scope.md R5, R16: a configuration comes with a RESET and holds from the next
step on, any other change is refused, and so is a configuration out of range. The model's choices: `step` itself
refuses a session whose configuration is out of range, whatever is asked for (log entry 4), a configuration is asked
for beside an operation word (log entry 5), a state with SL_STATE = 11 is refused before both (log entry 7), and where
two of R16's refusals apply, which name is given (log entry 15). -/
def Obligations.ConfigurationChangesOnlyWithReset : Prop :=
  (∀ (s : State) (w : BitVec 3) (c : Cfg) (rest : List HostInput),
    s.slState ≠ 0b11#2 → s.cfg.Legal → s.inputs = { op := w, cfg := some c } :: rest →
      (c ≠ s.cfg → w &&& 0b100#3 = 0b100#3 → c.Legal →
        step s = .next { State.create c with log := s.log, inputs := rest }) ∧
      (c ≠ s.cfg → w &&& 0b100#3 = 0b100#3 → ¬ c.Legal → step s = .refused .configOutOfRange) ∧
      (c ≠ s.cfg → w &&& 0b100#3 = 0b000#3 → step s = .refused .configChangeWithoutReset)) ∧
  (∀ s : State, s.slState ≠ 0b11#2 → ¬ s.cfg.Legal → step s = .refused .configOutOfRange) ∧
  (∀ s t : State, step s = .next t → t.cfg ≠ s.cfg →
    (nextInput s).cfg = some t.cfg ∧ (nextInput s).op &&& 0b100#3 = 0b100#3)

/-- 40_pipeline.md R99 and 70_reset_and_hazards.md R168: a session is created in the reset state with LOG empty, for
a configuration in range; a run starts only from the reset state. The model's choice: where the configuration is out
of range as well, that is the name given (log entry 15). -/
def Obligations.RunsStartFromTheResetState : Prop :=
  (∀ c : Cfg, (1 ≤ c.n ∧ c.n ≤ 255 → createSession c = .next (State.create c)) ∧
    (c.n = 0 ∨ 255 < c.n → createSession c = .refused .configOutOfRange)) ∧
  (∀ s : State, s.cfg.Legal →
    (fullReset s = s → startFrom s = .next s) ∧ (fullReset s ≠ s → startFrom s = .refused .startNotReset)) ∧
  (∀ s : State, ¬ s.cfg.Legal → startFrom s = .refused .configOutOfRange) ∧
  (∀ (s : State) (v x : Bit), s.cfg.Legal →
    ∃ t, exec (.reset v x) s = .next t ∧ startFrom t = .next t)

/-! The slicer (41_bitslicer.md). -/

/-- 41_bitslicer.md R102: a sample in SEARCH, with N = 1 apart. -/
def Obligations.SampleInSearch : Prop :=
  ∀ (s : State) (x : Bit), s.slState = slSearch →
    (x = 1#1 → exec (.ingest x) s = .next { s with out := ⟨none, none, none, none⟩ }) ∧
    (x = 0#1 → s.cfg.n ≠ 1 → exec (.ingest x) s = .next
      { s with slState := slConfirm, slCnt := 1#8, slOnes := 0#8, out := ⟨none, none, none, none⟩ }) ∧
    (x = 0#1 → s.cfg.n = 1 → exec (.ingest x) s = .next
      { s with slState := slSample, slCnt := 0#8, slOnes := 0#8, baN := 0#4, baBits := 0#10,
               out := ⟨none, none, none, none⟩ })

/-- 41_bitslicer.md R103: a sample in CONFIRM counts; the Nth decides, and a tie does not confirm (R109). -/
def Obligations.SampleInConfirm : Prop :=
  ∀ (s : State) (x : Bit), s.slState = slConfirm →
    (s.slCnt.toNat + 1 ≠ s.cfg.n → exec (.ingest x) s = .next
      { s with slCnt := s.slCnt + 1#8, slOnes := s.slOnes + x.setWidth 8, out := ⟨none, none, none, none⟩ }) ∧
    (s.slCnt.toNat + 1 = s.cfg.n → 2 * (s.slOnes.toNat + x.toNat) < s.cfg.n → exec (.ingest x) s = .next
      { s with slState := slSample, slCnt := 0#8, slOnes := 0#8, baN := 0#4, baBits := 0#10,
               out := ⟨none, none, none, none⟩ }) ∧
    (s.slCnt.toNat + 1 = s.cfg.n → s.cfg.n ≤ 2 * (s.slOnes.toNat + x.toNat) → exec (.ingest x) s = .next
      { s with slState := slSearch, slCnt := 0#8, slOnes := 0#8, out := ⟨none, none, none, none⟩ })

/-- 41_bitslicer.md R105: a sample in SAMPLE counts; the Nth delivers the majority bit (R101), a tie giving 0, which
is one of the first nine bits or the tenth. -/
def Obligations.SampleInSample : Prop :=
  ∀ (s : State) (x : Bit), s.slState = slSample →
    (s.slCnt.toNat + 1 ≠ s.cfg.n → exec (.ingest x) s = .next
      { s with slCnt := s.slCnt + 1#8, slOnes := s.slOnes + x.setWidth 8, out := ⟨none, none, none, none⟩ }) ∧
    (∀ b : Bit, s.slCnt.toNat + 1 = s.cfg.n → (b = 1#1 ↔ 2 * (s.slOnes.toNat + x.toNat) > s.cfg.n) →
      (s.baN.toNat ≤ 8 → exec (.ingest x) s = exec (.baPush b)
        { s with slCnt := 0#8, slOnes := 0#8, out := ⟨none, none, none, none⟩ }) ∧
      (s.baN.toNat = 9 → exec (.ingest x) s = exec (.baComplete b)
        { s with slCnt := 0#8, slOnes := 0#8, out := ⟨none, none, none, none⟩ }))

/-- The slicer's transitions that deliver no bit complete in every state, each with the effect its rule gives and
nothing else (41_bitslicer.md R102, R103, R105, R108). -/
def Obligations.SlicerTransitionsComplete : Prop :=
  ∀ (s : State) (x : Bit),
    exec .searchIdle s = .next s ∧
    (s.cfg.n ≠ 1 → exec .searchStart s = .next { s with slState := 0b01#2, slCnt := 1#8, slOnes := 0#8 }) ∧
    (s.cfg.n = 1 → exec .searchStart s = .next
      { s with slState := 0b10#2, slCnt := 0#8, slOnes := 0#8, baN := 0#4, baBits := 0#10 }) ∧
    exec (.confirmAcc x) s = .next { s with slCnt := s.slCnt + 1#8, slOnes := s.slOnes + x.setWidth 8 } ∧
    exec (.sampleAcc x) s = .next { s with slCnt := s.slCnt + 1#8, slOnes := s.slOnes + x.setWidth 8 } ∧
    exec (.confirmOk x) s = .next
      { s with slState := 0b10#2, slCnt := 0#8, slOnes := 0#8, baN := 0#4, baBits := 0#10 }

/-- 41_bitslicer.md R107: a BitSyncFailure is silent and touches only the slicer registers. -/
def Obligations.BitSyncFailureTouchesOnlyTheSlicer : Prop :=
  ∀ (s : State) (x : Bit),
    exec (.confirmFail x) s = .next { s with slState := 0b00#2, slCnt := 0#8, slOnes := 0#8 }

/-- SAMPLE_DECIDE completes on each of the first nine data bits: the bit is 1 exactly when `2*ones' > N` and becomes
bit BA_N of BA_BITS, and nothing else changes (41_bitslicer.md R101, R105, 42_byte_assembler.md R113). -/
def Obligations.MajorityBitIsPushed : Prop :=
  ∀ (s : State) (x : Bit), s.baN.toNat ≤ 8 →
    ∃ bits : BitVec 10,
      exec (.sampleDecide x) s = .next
        { s with slCnt := 0#8, slOnes := 0#8, baBits := bits, baN := s.baN + 1#4 } ∧
      ∀ i, i < 10 → bits.getLsbD i =
        if i = s.baN.toNat then decide (2 * (s.slOnes.toNat + x.toNat) > s.cfg.n) else s.baBits.getLsbD i

/-- 30_encoding.md R89, 93_implementation_defined.md I1: a state that holds SL_STATE = 11 is refused by every step,
whatever the host presents, and a step from any other state is never refused for it; the row of the selector `11s` is
refused too, and so is an INGEST that meets it. That the refusal comes before any other is the model's choice (log
entry 7). -/
def Obligations.ReservedSlicerStateIsRefused : Prop :=
  (∀ s : State, s.slState = 0b11#2 ↔ step s = .refused .slicerStateReserved) ∧
  ∀ (s : State) (x : Bit),
    exec (.slicerReserved11 x) s = .refused .slicerStateReserved ∧
    (s.slState = 0b11#2 → exec (.ingest x) s = .refused .slicerStateReserved)

/-! The assembler (42_byte_assembler.md). -/

/-- 42_byte_assembler.md R113: the bit becomes bit BA_N and BA_N goes up by one; where the bits from BA_N on were 0,
BA_BITS grows by b * 2^BA_N. From 0 to 8 nothing else changes; at 9 the push completes the byte, and the row the ten
bits choose runs. -/
def Obligations.DataBitIsAccumulated : Prop :=
  ∀ (s : State) (b : Bit), s.baN.toNat ≤ 9 →
    ∃ bits : BitVec 10,
      (∀ i, i < 10 → bits.getLsbD i = if i = s.baN.toNat then decide (b = 1#1) else s.baBits.getLsbD i) ∧
      (s.baBits.toNat < 2 ^ s.baN.toNat → bits.toNat = s.baBits.toNat + b.toNat * 2 ^ s.baN.toNat) ∧
      (s.baN.toNat ≤ 8 → exec (.baPush b) s = .next { s with baBits := bits, baN := s.baN + 1#4 }) ∧
      (s.baN.toNat = 9 → exec (.baComplete b) s =
        exec ((completionRow bits).instr bits) { s with baBits := bits, baN := s.baN + 1#4 })

/-- 42_byte_assembler.md R114, R117: the tenth bit `t` completes the byte-frame; the stop bit is checked before the
parity, and the row that follows runs with the ten bits held. -/
def Obligations.TenthBitChecksStopThenParity : Prop :=
  ∀ (s : State) (t p : Bit) (d : Byte), s.baN.toNat = 9 → s.baBits.setWidth 9 = p ++ d →
    exec (.baComplete t) s =
      exec (if t = 0#1 then .baFailStop p d
            else if (popcount d + p.toNat) % 2 = 1 then .baFailParity p d
            else .baOk p d)
        { s with baBits := t ++ p ++ d, baN := 10#4 }

/-- 42_byte_assembler.md R120, the acceptance law: the tenth bit gives the byte exactly when the stop bit is 1 and
the parity is even, and otherwise the one FramingError. -/
def Obligations.ByteIsAcceptedExactlyOnStopAndParity : Prop :=
  ∀ (s : State) (t p : Bit) (d : Byte),
    s.baN.toNat = 9 → s.baBits.setWidth 9 = p ++ d → s.out = ⟨none, none, none, none⟩ → s.frBuf.length < 261 →
    framerRow (s.frPos.toNat + 1) (lengthByte s) ≠ none →
    ∃ u, exec (.baComplete t) s = .next u ∧
      (u.out.byte = some d ↔ t = 1#1 ∧ (popcount d + p.toNat) % 2 = 0) ∧
      (¬ (t = 1#1 ∧ (popcount d + p.toNat) % 2 = 0) → u.out.byte = none ∧ u.out.tg = none ∧
        ∃ g, u.out.diag = some g ∧ g.kind = 1#2 ∧ g.code = if t = 0#1 then 1#4 else 2#4)

/-- 42_byte_assembler.md R115, 60_exceptions.md R150: a wrong stop bit is reported with expected 1, actual 0 and the
byte's position, and resets fully; it is what a tenth bit of 0 gives. -/
def Obligations.WrongStopBitResets : Prop :=
  ∀ (s : State) (p : Bit) (d : Byte) (u : State),
    u = { State.create s.cfg with
          log := s.log, inputs := s.inputs,
          out := { s.out with diag := some ⟨1#2, 1#4, 1#8, 0#8, s.frPos + 1#9⟩ } } →
    exec (.baFailStop p d) s = .next u ∧ (s.baN.toNat = 9 → exec (.baComplete 0#1) s = .next u)

/-- 42_byte_assembler.md R116, 60_exceptions.md R150: a wrong parity is reported with the bit that would have passed,
the bit received and the byte's position, and resets fully; it is what a tenth bit of 1 gives with odd parity. -/
def Obligations.WrongParityResets : Prop :=
  ∀ (s : State) (p : Bit) (d : Byte) (u : State),
    u = failedWith ⟨1#2, 2#4, BitVec.ofNat 8 (popcount d % 2), BitVec.ofNat 8 p.toNat, s.frPos + 1#9⟩ s →
    exec (.baFailParity p d) s = .next u ∧
    (s.baN.toNat = 9 → s.baBits.setWidth 9 = p ++ d → (popcount d + p.toNat) % 2 = 1 →
      exec (.baComplete 1#1) s = .next u)

/-- BA_OK completes wherever a rule names the byte's position: the byte is on OUT_BYTE, the slicer is in SEARCH, the
assembler is empty, and the configuration and the host's inputs stay (42_byte_assembler.md R116, R118, R119); at a
position no rule names it is refused (log entry 8). -/
def Obligations.VerifiedByteIsDelivered : Prop :=
  ∀ (s : State) (p : Bit) (d : Byte),
    (s.frBuf.length < 261 → framerRow (s.frPos.toNat + 1) (lengthByte s) ≠ none →
      ∃ t, exec (.baOk p d) s = .next t ∧ t.out.byte = some d ∧ t.slState = slSearch ∧ t.baN = 0#4 ∧
        t.baBits = 0#10 ∧ t.cfg = s.cfg ∧ t.inputs = s.inputs) ∧
    (framerRow (s.frPos.toNat + 1) (lengthByte s) = none →
      exec (.baOk p d) s = .refused .framerPositionReserved)

/-! The framer (43_telegram_framer.md). -/

/-- 43_telegram_framer.md R122 and R126: the start characters at positions 1 and 4. -/
def Obligations.StartCharactersAreChecked : Prop :=
  ∀ (s : State) (v : Byte), s.frBuf.length < 261 →
    (v = 0x68#8 → exec (.frP1 v) s = .next (appended v s) ∧ exec (.frP4 v) s = .next (appended v s)) ∧
    (v ≠ 0x68#8 → exec (.frP1 v) s = .next (failedWith ⟨2#2, 1#4, 0x68#8, v, 1#9⟩ s) ∧
      exec (.frP4 v) s = .next (failedWith ⟨2#2, 4#4, 0x68#8, v, 4#9⟩ s))

/-- 43_telegram_framer.md R123 and R127: the length byte and the counted bytes are accepted whatever their value, and
L is the length byte from then on. -/
def Obligations.LengthAndCountedBytesAccumulate : Prop :=
  ∀ (s : State) (v : Byte), s.frBuf.length < 261 →
    exec (.frP2 v) s = .next { s with frPos := s.frPos + 1#9, frBuf := s.frBuf ++ [v] } ∧
    (s.frBuf.length = 1 → lengthByte { s with frPos := s.frPos + 1#9, frBuf := s.frBuf ++ [v] } = v.toNat) ∧
    exec (.frBody v) s = .next { s with frPos := s.frPos + 1#9, frBuf := s.frBuf ++ [v] }

/-- 43_telegram_framer.md R124 and R125: at position 3 the mismatch is checked first, then the minimum length. -/
def Obligations.RedundantLengthIsChecked : Prop :=
  ∀ (s : State) (b0 l v : Byte), s.frBuf = [b0, l] →
    (l ≠ v → exec (.frP3 v) s = .next (failedWith ⟨2#2, 2#4, l, v, 3#9⟩ s)) ∧
    (l = v → l.toNat < 3 → exec (.frP3 v) s = .next (failedWith ⟨2#2, 3#4, 3#8, l, 3#9⟩ s)) ∧
    (l = v → 3 ≤ l.toNat → exec (.frP3 v) s = .next (appended v s))

/-- 43_telegram_framer.md R128: the byte after the L counted bytes is their sum mod 256, or a FrameGrammarError. -/
def Obligations.ChecksumIsTheSumOfTheCountedBytes : Prop :=
  ∀ (s : State) (b0 l l' b3 v : Byte) (counted : List Byte),
    s.frBuf = [b0, l, l', b3] ++ counted → counted.length = l.toNat →
    (v.toNat = (counted.map BitVec.toNat).sum % 256 → exec (.frCsum v) s = .next (appended v s)) ∧
    (v.toNat ≠ (counted.map BitVec.toNat).sum % 256 → exec (.frCsum v) s = .next
      (failedWith ⟨2#2, 5#4, BitVec.ofNat 8 (counted.map BitVec.toNat).sum, v, BitVec.ofNat 9 (5 + l.toNat)⟩ s))

/-- 43_telegram_framer.md R129 to R131: the stop character completes the telegram, whose record is built from the
full buffer, goes on OUT_TG and to the interpreter, and the framer is cleared; another byte is a FrameGrammarError. -/
def Obligations.StopCharacterCompletesTheTelegram : Prop :=
  ∀ (s : State) (b0 l l' b3 b4 a1 a2 cs v : Byte) (payload : List Byte) (g : Generic),
    s.frBuf = [b0, l, l', b3, b4, a1, a2] ++ payload ++ [cs] → payload.length + 3 = l.toNat →
    g = ⟨b4.extractLsb' 4 4, a1, a2, payload, cs⟩ →
    (v = 0x16#8 →
      exec (.frStop v) s =
        exec ((interpreterRow g).instr g) { s with frPos := 0#9, frBuf := [], out := { s.out with tg := some g } } ∧
      ∃ t, exec (.frStop v) s = .next t ∧ t.out.tg = some g ∧ t.frPos = 0#9 ∧ t.frBuf = [] ∧
        t.log = s.log ++ (recordOf s.cfg g).toList ∧ t.slState = s.slState ∧ t.slCnt = s.slCnt ∧
        t.slOnes = s.slOnes ∧ t.baN = s.baN ∧ t.baBits = s.baBits ∧ t.cfg = s.cfg ∧ t.inputs = s.inputs ∧
        t.out.byte = s.out.byte) ∧
    (v ≠ 0x16#8 → exec (.frStop v) s = .next
      (failedWith ⟨2#2, 6#4, 0x16#8, v, BitVec.ofNat 9 (6 + l.toNat)⟩ s))

/-- An append to a full buffer, which no run makes, is a fault in every position class (log entry 9; 20_memory.md
R46). -/
def Obligations.FullBufferTakesNoByte : Prop :=
  ∀ (s : State) (v : Byte), s.frBuf.length = 261 →
    exec (.frP1 v) s = .fault .bufferFull ∧ exec (.frP2 v) s = .fault .bufferFull ∧
    exec (.frP3 v) s = .fault .bufferFull ∧ exec (.frP4 v) s = .fault .bufferFull ∧
    exec (.frBody v) s = .fault .bufferFull ∧ exec (.frCsum v) s = .fault .bufferFull ∧
    exec (.frStop v) s = .fault .bufferFull

/-! The interpreter (44_interpreter.md). -/

/-- 44_interpreter.md R138: a telegram with a nonzero address byte is logged as it is. -/
def Obligations.NonzeroAddressIsLoggedAsItIs : Prop :=
  ∀ (s : State) (g : Generic),
    exec (.nonzeroAddr g) s = .next
      { s with log := s.log ++ [.generic g], out := { s.out with record := some (.generic g) } }

/-- 44_interpreter.md R139, R140, R142 and R143: with at least seven payload bytes and a leading 0, the eight fields
are decoded as they stand, bytes from the eighth on ignored, and the date-time record is logged. -/
def Obligations.DateTimeIsDecoded : Prop :=
  ∀ (s : State) (g : Generic) (p1 p2 p3 p4 p5 p6 : Byte) (rest : List Byte),
    g.payload = 0#8 :: p1 :: p2 :: p3 :: p4 :: p5 :: p6 :: rest →
    ∃ d : DateTime,
      exec (.zeroAddr g) s = .next
        { s with log := s.log ++ [.dateTime d], out := { s.out with record := some (.dateTime d) } } ∧
      d.second.toNat = p1.toNat / 4 ∧ d.minute = p2 ∧ d.hour.toNat = p3.toNat % 128 ∧
      d.dstFlag.toNat = p3.toNat / 128 ∧ d.dayOfWeek.toNat = p4.toNat / 32 ∧
      d.dayOfMonth.toNat = p4.toNat % 32 ∧ d.month = p5 ∧ d.year.toNat = 2000 + p6.toNat

/-- 44_interpreter.md R139 and R141: a payload that is too short, checked first, or does not begin with 0 gives a
PayloadFormatError; the policy decides whether the generic record is logged; no register changes (R145). -/
def Obligations.FailedDateTimeDecodeFollowsThePolicy : Prop :=
  ∀ (s : State) (g : Generic),
    (g.payload.length < 7 → ∀ d : Diag, d = ⟨3#2, 1#4, 7#8, BitVec.ofNat 8 g.payload.length, 0#9⟩ →
      (s.cfg.dtFailKeepsGeneric = false →
        exec (.zeroAddr g) s = .next { s with out := { s.out with diag := some d } }) ∧
      (s.cfg.dtFailKeepsGeneric = true →
        exec (.zeroAddr g) s = .next
          { s with log := s.log ++ [.generic g],
                   out := { s.out with diag := some d, record := some (.generic g) } })) ∧
    (7 ≤ g.payload.length → ∀ (p0 : Byte) (d : Diag), g.payload.head? = some p0 → p0 ≠ 0#8 →
      d = ⟨3#2, 2#4, 0#8, p0, 0#9⟩ →
      (s.cfg.dtFailKeepsGeneric = false →
        exec (.zeroAddr g) s = .next { s with out := { s.out with diag := some d } }) ∧
      (s.cfg.dtFailKeepsGeneric = true →
        exec (.zeroAddr g) s = .next
          { s with log := s.log ++ [.generic g],
                   out := { s.out with diag := some d, record := some (.generic g) } }))

/-! Errors and whole-machine rules. -/

/-- 60_exceptions.md R151: what raising an error of each kind does. -/
def Obligations.RaiseFollowsTheKind : Prop :=
  ∀ (c : Cause) (e a : Byte) (p : BitVec 9) (s : State),
    (causeKind c = .framing ∨ causeKind c = .frameGrammar →
      raise c e a p s = fullReset { s with out := { s.out with diag := some (diagOf c e a p) } }) ∧
    (causeKind c = .payloadFormat →
      raise c e a p s = { s with out := { s.out with diag := some (diagOf c e a 0#9) } }) ∧
    (causeKind c = .bitSync → raise c e a p s = s)

/-- 40_pipeline.md R97: LOG changes only by the record on OUT_REC, which is the interpreter's result for the telegram
on OUT_TG. -/
def Obligations.LogGrowsByTheInterpretersRecord : Prop :=
  ∀ s t : State, step s = .next t →
    t.log = s.log ++ t.out.record.toList ∧ t.out.record = t.out.tg.bind (recordOf s.cfg)

/-- 10_state.md R43: how the outputs of one step are related. -/
def Obligations.OutputsOfAStepAreRelated : Prop :=
  ∀ s t : State, step s = .next t →
    (t.out.tg ≠ none → t.out.byte ≠ none) ∧
    (t.out.record ≠ none → t.out.tg ≠ none) ∧
    (∀ d, t.out.diag = some d → t.out.tg ≠ none → d.kind = 3#2) ∧
    ((nextInput s).op &&& 0b110#3 ≠ 0b010#3 → t.out = ⟨none, none, none, none⟩)

/-- 60_exceptions.md R150, R152, R153: after a FramingError or FrameGrammarError every register but LOG is at its
reset value, whatever the state was; a PayloadFormatError comes only with a completed telegram. -/
def Obligations.FailuresResetEveryRegister : Prop :=
  ∀ (s t : State) (d : Diag), step s = .next t → t.out.diag = some d →
    d.kind ≠ 0#2 ∧
    (d.kind = 1#2 ∨ d.kind = 2#2 → fullReset t = t ∧ t.log = s.log) ∧
    (d.kind = 3#2 → t.out.tg ≠ none)

/-- 20_memory.md R47, R49, R50 and 90_conflicts.md C5: in a step FR_BUF and FR_POS stay, take the byte on OUT_BYTE,
or are cleared, and they are cleared only by a RESET, an error of kind 1 or 2, or a completed telegram. -/
def Obligations.BufferIsAppendedOrCleared : Prop :=
  ∀ s t : State, step s = .next t →
    (t.frBuf = s.frBuf ∧ t.frPos = s.frPos ∧ t.out.byte = none) ∨
    (∃ v, t.out.byte = some v ∧ t.frBuf = s.frBuf ++ [v] ∧ t.frPos = s.frPos + 1#9 ∧ t.out.diag = none) ∨
    (t.frBuf = [] ∧ t.frPos = 0#9 ∧
      ((nextInput s).op &&& 0b100#3 = 0b100#3 ∨ t.out.tg ≠ none ∨
        ∃ d, t.out.diag = some d ∧ (d.kind = 1#2 ∨ d.kind = 2#2)))

/-- 30_encoding.md R84: a FramingError or FrameGrammarError reports the position of the byte that failed, FR_POS + 1
before it, and a PayloadFormatError reports 0. -/
def Obligations.DiagnosticReportsThePosition : Prop :=
  ∀ (s t : State) (d : Diag), s.frPos.toNat = s.frBuf.length → step s = .next t → t.out.diag = some d →
    (d.kind = 1#2 ∨ d.kind = 2#2 → d.pos = s.frPos + 1#9) ∧ (d.kind = 3#2 → d.pos = 0#9)

/-- INGEST completes from every state of a run (60_exceptions.md R154), and leaves the configuration and the host's
inputs alone; the telegram registers change only with a byte on OUT_BYTE or an error. -/
def Obligations.SampleAlwaysCompletes : Prop :=
  ∀ (s : State) (x : Bit), Inv s →
    ∃ t, exec (.ingest x) s = .next t ∧ t.cfg = s.cfg ∧ t.inputs = s.inputs ∧
      t.log = s.log ++ t.out.record.toList ∧
      (t.out.byte = none → t.out.diag = none → t.frBuf = s.frBuf ∧ t.frPos = s.frPos ∧ t.log = s.log)

/-- BA_COMPLETE and SAMPLE_DECIDE complete on the tenth data bit from every state of a run in SAMPLE with BA_N = 9,
and end the byte-frame (40_pipeline.md R95). -/
def Obligations.ByteFrameAlwaysEnds : Prop :=
  ∀ (s : State) (b : Bit), Inv s → s.baN.toNat = 9 →
    (∃ t, exec (.baComplete b) s = .next t ∧ t.slState = slSearch ∧ t.baN = 0#4 ∧ t.baBits = 0#10 ∧
      t.cfg = s.cfg ∧ t.inputs = s.inputs) ∧
    (∃ t, exec (.sampleDecide b) s = .next t ∧ t.slState = slSearch ∧ t.slCnt = 0#8 ∧ t.slOnes = 0#8 ∧
      t.baN = 0#4 ∧ t.baBits = 0#10 ∧ t.cfg = s.cfg ∧ t.inputs = s.inputs)

/-- A newly created session meets the invariant, whatever the host presents. -/
def Obligations.NewSessionMeetsTheInvariant : Prop :=
  (∀ (c : Cfg) (ops : List HostInput), c.Legal → Inv { State.create c with inputs := ops }) ∧ Inv State.reset

/-- Every step keeps the invariant: R34 and R35 of 10_state.md, a legal configuration, and LOG's record formats. -/
def Obligations.StepKeepsTheInvariant : Prop :=
  ∀ s t : State, Inv s → step s = .next t → Inv t

/-- 10_state.md R34 and R35: every state that any operations reach from a created session meets both. Steps past the
last operation are NOP steps by the model's choice (log entry 2); they reach only states that NOP words reach. -/
def Obligations.ReachableStatesMeetTheInvariants : Prop :=
  ∀ (c : Cfg) (ops : List HostInput) (k : Nat) (t : State), c.Legal →
    runSteps k { State.create c with inputs := ops } = .next t → SlicerInv t ∧ FramerInv t

/-- 60_exceptions.md R154: no operations stop the core. Every step from a state that meets the invariant answers a
next state, errors included, unless the host asks for a configuration change the spec refuses. Steps past the last
operation are NOP steps by the model's choice (log entry 2). -/
def Obligations.NoErrorStopsTheCore : Prop :=
  ∀ (s : State) (k : Nat), Inv s → (∀ i ∈ s.inputs, i.cfg = none) → ∃ t, runSteps k s = .next t

/-- 40_pipeline.md R100: after a full reset of any state, every sequence of operations gives, step by step, what it
gives a newly created session with the same configuration; LOG differs only by the older records. Steps past the last
operation are NOP steps by the model's choice (log entry 2). -/
def Obligations.ResetDecodesAsAColdStart : Prop :=
  ∀ (s : State) (ops : List HostInput) (k : Nat),
    runSteps k { fullReset s with inputs := ops, out := {} } =
      mapNext (withOlderLog s.log) (runSteps k { State.create s.cfg with inputs := ops })

/-- No rule reads LOG: a step does the same whatever older records stand in it (40_pipeline.md R100). -/
def Obligations.NoRuleReadsTheLog : Prop :=
  ∀ (s : State) (older : List Record), step (withOlderLog older s) = mapNext (withOlderLog older) (step s)

/-- 41_bitslicer.md R111, R112: from SEARCH, the 11N samples of a byte-frame end in the completion row of its ten
data bits, for every N, every byte and every pair of trailer bits, with the framer as it stood. -/
def Obligations.ByteFrameIsReadInElevenNSamples : Prop :=
  ∀ (s : State) (v : Byte) (p t : Bit) (rest : List HostInput),
    s.cfg.Legal → s.slState = slSearch → s.slCnt = 0#8 → s.slOnes = 0#8 → s.baN = 0#4 → s.baBits = 0#10 →
    runSteps (11 * s.cfg.n)
        { s with inputs := (byteFrameWith s.cfg.n v p t).map (fun w => { op := w }) ++ rest } =
      exec ((completionRow (t ++ p ++ v)).instr (t ++ p ++ v))
        { s with slState := slSample, baN := 10#4, baBits := t ++ p ++ v,
                 out := ⟨none, none, none, none⟩, inputs := rest }

/-- 43_telegram_framer.md R134, the round trip: a telegram encoded with its checksum is decoded to the same sequence
number, addresses, payload and checksum, for every payload of up to 252 bytes, and the framer is cleared. -/
def Obligations.TelegramRoundTrip : Prop :=
  ∀ (s : State) (byte4 a1 a2 : Byte) (payload : List Byte) (g : Generic),
    payload.length ≤ 252 → s.frPos = 0#9 → s.frBuf = [] →
    g = ⟨byte4.extractLsb' 4 4, a1, a2, payload,
      BitVec.ofNat 8 (([byte4, a1, a2] ++ payload).map BitVec.toNat).sum⟩ →
    ∃ t, deliverBytes (telegramBytes byte4 a1 a2 payload) s = .next t ∧ t.out.tg = some g ∧
      t.log = s.log ++ (recordOf s.cfg g).toList ∧ t.frPos = 0#9 ∧ t.frBuf = [] ∧ t.cfg = s.cfg ∧
      t.inputs = s.inputs

/-- 70_reset_and_hazards.md R180: from the reset registers, the (6+L)*11N samples of a telegram on the wire put its
record in LOG in the step of the last sample, and leave every register at its reset value. -/
def Obligations.TelegramOnTheWireIsLogged : Prop :=
  ∀ (s : State) (byte4 a1 a2 : Byte) (payload : List Byte) (rest : List HostInput) (g : Generic),
    s.cfg.Legal → payload.length ≤ 252 → fullReset s = s →
    g = ⟨byte4.extractLsb' 4 4, a1, a2, payload,
      BitVec.ofNat 8 (([byte4, a1, a2] ++ payload).map BitVec.toNat).sum⟩ →
    ∃ t, runSteps ((6 + (payload.length + 3)) * (11 * s.cfg.n))
        { s with inputs := (byteFrames s.cfg.n (telegramBytes byte4 a1 a2 payload)).map (fun w => { op := w })
                            ++ rest } = .next t ∧
      t.out.tg = some g ∧ t.out.record = recordOf s.cfg g ∧ t.log = s.log ++ (recordOf s.cfg g).toList ∧
      fullReset t = t ∧ t.inputs = rest
end

