-- ==== Sys2Proof/Laws/State.lean ====
section
/-! SUPPORT. One lemma per field per update of State, each true by rfl, so that no proof unfolds a record update. -/

namespace Sys2Proof.Machine

variable (s : State)

@[simp] theorem clearOut_cfg : (clearOut s).cfg = s.cfg := rfl
@[simp] theorem clearOut_slState : (clearOut s).slState = s.slState := rfl
@[simp] theorem clearOut_slCnt : (clearOut s).slCnt = s.slCnt := rfl
@[simp] theorem clearOut_slOnes : (clearOut s).slOnes = s.slOnes := rfl
@[simp] theorem clearOut_baN : (clearOut s).baN = s.baN := rfl
@[simp] theorem clearOut_baBits : (clearOut s).baBits = s.baBits := rfl
@[simp] theorem clearOut_frPos : (clearOut s).frPos = s.frPos := rfl
@[simp] theorem clearOut_frBuf : (clearOut s).frBuf = s.frBuf := rfl
@[simp] theorem clearOut_log : (clearOut s).log = s.log := rfl
@[simp] theorem clearOut_out : (clearOut s).out = {} := rfl
@[simp] theorem clearOut_inputs : (clearOut s).inputs = s.inputs := rfl

@[simp] theorem emitByte_cfg (v : Byte) : (emitByte v s).cfg = s.cfg := rfl
@[simp] theorem emitByte_slState (v : Byte) : (emitByte v s).slState = s.slState := rfl
@[simp] theorem emitByte_slCnt (v : Byte) : (emitByte v s).slCnt = s.slCnt := rfl
@[simp] theorem emitByte_slOnes (v : Byte) : (emitByte v s).slOnes = s.slOnes := rfl
@[simp] theorem emitByte_baN (v : Byte) : (emitByte v s).baN = s.baN := rfl
@[simp] theorem emitByte_baBits (v : Byte) : (emitByte v s).baBits = s.baBits := rfl
@[simp] theorem emitByte_frPos (v : Byte) : (emitByte v s).frPos = s.frPos := rfl
@[simp] theorem emitByte_frBuf (v : Byte) : (emitByte v s).frBuf = s.frBuf := rfl
@[simp] theorem emitByte_log (v : Byte) : (emitByte v s).log = s.log := rfl
@[simp] theorem emitByte_out (v : Byte) : (emitByte v s).out = { s.out with byte := some v } := rfl
@[simp] theorem emitByte_inputs (v : Byte) : (emitByte v s).inputs = s.inputs := rfl

@[simp] theorem emitTelegram_cfg (t : Generic) : (emitTelegram t s).cfg = s.cfg := rfl
@[simp] theorem emitTelegram_slState (t : Generic) : (emitTelegram t s).slState = s.slState := rfl
@[simp] theorem emitTelegram_slCnt (t : Generic) : (emitTelegram t s).slCnt = s.slCnt := rfl
@[simp] theorem emitTelegram_slOnes (t : Generic) : (emitTelegram t s).slOnes = s.slOnes := rfl
@[simp] theorem emitTelegram_baN (t : Generic) : (emitTelegram t s).baN = s.baN := rfl
@[simp] theorem emitTelegram_baBits (t : Generic) : (emitTelegram t s).baBits = s.baBits := rfl
@[simp] theorem emitTelegram_frPos (t : Generic) : (emitTelegram t s).frPos = s.frPos := rfl
@[simp] theorem emitTelegram_frBuf (t : Generic) : (emitTelegram t s).frBuf = s.frBuf := rfl
@[simp] theorem emitTelegram_log (t : Generic) : (emitTelegram t s).log = s.log := rfl
@[simp] theorem emitTelegram_out (t : Generic) : (emitTelegram t s).out = { s.out with tg := some t } := rfl
@[simp] theorem emitTelegram_inputs (t : Generic) : (emitTelegram t s).inputs = s.inputs := rfl

@[simp] theorem emitDiag_cfg (d : Diag) : (emitDiag d s).cfg = s.cfg := rfl
@[simp] theorem emitDiag_slState (d : Diag) : (emitDiag d s).slState = s.slState := rfl
@[simp] theorem emitDiag_slCnt (d : Diag) : (emitDiag d s).slCnt = s.slCnt := rfl
@[simp] theorem emitDiag_slOnes (d : Diag) : (emitDiag d s).slOnes = s.slOnes := rfl
@[simp] theorem emitDiag_baN (d : Diag) : (emitDiag d s).baN = s.baN := rfl
@[simp] theorem emitDiag_baBits (d : Diag) : (emitDiag d s).baBits = s.baBits := rfl
@[simp] theorem emitDiag_frPos (d : Diag) : (emitDiag d s).frPos = s.frPos := rfl
@[simp] theorem emitDiag_frBuf (d : Diag) : (emitDiag d s).frBuf = s.frBuf := rfl
@[simp] theorem emitDiag_log (d : Diag) : (emitDiag d s).log = s.log := rfl
@[simp] theorem emitDiag_out (d : Diag) : (emitDiag d s).out = { s.out with diag := some d } := rfl
@[simp] theorem emitDiag_inputs (d : Diag) : (emitDiag d s).inputs = s.inputs := rfl

@[simp] theorem fullReset_cfg : (fullReset s).cfg = s.cfg := rfl
@[simp] theorem fullReset_slState : (fullReset s).slState = slSearch := rfl
@[simp] theorem fullReset_slCnt : (fullReset s).slCnt = 0#8 := rfl
@[simp] theorem fullReset_slOnes : (fullReset s).slOnes = 0#8 := rfl
@[simp] theorem fullReset_baN : (fullReset s).baN = 0#4 := rfl
@[simp] theorem fullReset_baBits : (fullReset s).baBits = 0#10 := rfl
@[simp] theorem fullReset_frPos : (fullReset s).frPos = 0#9 := rfl
@[simp] theorem fullReset_frBuf : (fullReset s).frBuf = [] := rfl
@[simp] theorem fullReset_log : (fullReset s).log = s.log := rfl
@[simp] theorem fullReset_out : (fullReset s).out = s.out := rfl
@[simp] theorem fullReset_inputs : (fullReset s).inputs = s.inputs := rfl

@[simp] theorem memClear_cfg : (memClear s).cfg = s.cfg := rfl
@[simp] theorem memClear_slState : (memClear s).slState = s.slState := rfl
@[simp] theorem memClear_slCnt : (memClear s).slCnt = s.slCnt := rfl
@[simp] theorem memClear_slOnes : (memClear s).slOnes = s.slOnes := rfl
@[simp] theorem memClear_baN : (memClear s).baN = s.baN := rfl
@[simp] theorem memClear_baBits : (memClear s).baBits = s.baBits := rfl
@[simp] theorem memClear_frPos : (memClear s).frPos = 0#9 := rfl
@[simp] theorem memClear_frBuf : (memClear s).frBuf = [] := rfl
@[simp] theorem memClear_log : (memClear s).log = s.log := rfl
@[simp] theorem memClear_out : (memClear s).out = s.out := rfl
@[simp] theorem memClear_inputs : (memClear s).inputs = s.inputs := rfl

@[simp] theorem logRecord_cfg (r : Record) : (logRecord r s).cfg = s.cfg := rfl
@[simp] theorem logRecord_slState (r : Record) : (logRecord r s).slState = s.slState := rfl
@[simp] theorem logRecord_slCnt (r : Record) : (logRecord r s).slCnt = s.slCnt := rfl
@[simp] theorem logRecord_slOnes (r : Record) : (logRecord r s).slOnes = s.slOnes := rfl
@[simp] theorem logRecord_baN (r : Record) : (logRecord r s).baN = s.baN := rfl
@[simp] theorem logRecord_baBits (r : Record) : (logRecord r s).baBits = s.baBits := rfl
@[simp] theorem logRecord_frPos (r : Record) : (logRecord r s).frPos = s.frPos := rfl
@[simp] theorem logRecord_frBuf (r : Record) : (logRecord r s).frBuf = s.frBuf := rfl
@[simp] theorem logRecord_log (r : Record) : (logRecord r s).log = s.log ++ [r] := rfl
@[simp] theorem logRecord_out (r : Record) : (logRecord r s).out = { s.out with record := some r } := rfl
@[simp] theorem logRecord_inputs (r : Record) : (logRecord r s).inputs = s.inputs := rfl

@[simp] theorem setSlicer_cfg (st : BitVec 2) (c o : BitVec 8) : (setSlicer st c o s).cfg = s.cfg := rfl
@[simp] theorem setSlicer_slState (st : BitVec 2) (c o : BitVec 8) : (setSlicer st c o s).slState = st := rfl
@[simp] theorem setSlicer_slCnt (st : BitVec 2) (c o : BitVec 8) : (setSlicer st c o s).slCnt = c := rfl
@[simp] theorem setSlicer_slOnes (st : BitVec 2) (c o : BitVec 8) : (setSlicer st c o s).slOnes = o := rfl
@[simp] theorem setSlicer_baN (st : BitVec 2) (c o : BitVec 8) : (setSlicer st c o s).baN = s.baN := rfl
@[simp] theorem setSlicer_baBits (st : BitVec 2) (c o : BitVec 8) : (setSlicer st c o s).baBits = s.baBits := rfl
@[simp] theorem setSlicer_frPos (st : BitVec 2) (c o : BitVec 8) : (setSlicer st c o s).frPos = s.frPos := rfl
@[simp] theorem setSlicer_frBuf (st : BitVec 2) (c o : BitVec 8) : (setSlicer st c o s).frBuf = s.frBuf := rfl
@[simp] theorem setSlicer_log (st : BitVec 2) (c o : BitVec 8) : (setSlicer st c o s).log = s.log := rfl
@[simp] theorem setSlicer_out (st : BitVec 2) (c o : BitVec 8) : (setSlicer st c o s).out = s.out := rfl
@[simp] theorem setSlicer_inputs (st : BitVec 2) (c o : BitVec 8) : (setSlicer st c o s).inputs = s.inputs := rfl

@[simp] theorem countSample_cfg (x : Bit) : (countSample x s).cfg = s.cfg := rfl
@[simp] theorem countSample_slState (x : Bit) : (countSample x s).slState = s.slState := rfl
@[simp] theorem countSample_slCnt (x : Bit) : (countSample x s).slCnt = s.slCnt + 1#8 := rfl
@[simp] theorem countSample_slOnes (x : Bit) : (countSample x s).slOnes = s.slOnes + x.setWidth 8 := rfl
@[simp] theorem countSample_baN (x : Bit) : (countSample x s).baN = s.baN := rfl
@[simp] theorem countSample_baBits (x : Bit) : (countSample x s).baBits = s.baBits := rfl
@[simp] theorem countSample_frPos (x : Bit) : (countSample x s).frPos = s.frPos := rfl
@[simp] theorem countSample_frBuf (x : Bit) : (countSample x s).frBuf = s.frBuf := rfl
@[simp] theorem countSample_log (x : Bit) : (countSample x s).log = s.log := rfl
@[simp] theorem countSample_out (x : Bit) : (countSample x s).out = s.out := rfl
@[simp] theorem countSample_inputs (x : Bit) : (countSample x s).inputs = s.inputs := rfl

@[simp] theorem startSampling_cfg : (startSampling s).cfg = s.cfg := rfl
@[simp] theorem startSampling_slState : (startSampling s).slState = slSample := rfl
@[simp] theorem startSampling_slCnt : (startSampling s).slCnt = 0#8 := rfl
@[simp] theorem startSampling_slOnes : (startSampling s).slOnes = 0#8 := rfl
@[simp] theorem startSampling_baN : (startSampling s).baN = 0#4 := rfl
@[simp] theorem startSampling_baBits : (startSampling s).baBits = 0#10 := rfl
@[simp] theorem startSampling_frPos : (startSampling s).frPos = s.frPos := rfl
@[simp] theorem startSampling_frBuf : (startSampling s).frBuf = s.frBuf := rfl
@[simp] theorem startSampling_log : (startSampling s).log = s.log := rfl
@[simp] theorem startSampling_out : (startSampling s).out = s.out := rfl
@[simp] theorem startSampling_inputs : (startSampling s).inputs = s.inputs := rfl

@[simp] theorem backToSearch_cfg : (backToSearch s).cfg = s.cfg := rfl
@[simp] theorem backToSearch_slState : (backToSearch s).slState = slSearch := rfl
@[simp] theorem backToSearch_slCnt : (backToSearch s).slCnt = 0#8 := rfl
@[simp] theorem backToSearch_slOnes : (backToSearch s).slOnes = 0#8 := rfl
@[simp] theorem backToSearch_baN : (backToSearch s).baN = s.baN := rfl
@[simp] theorem backToSearch_baBits : (backToSearch s).baBits = s.baBits := rfl
@[simp] theorem backToSearch_frPos : (backToSearch s).frPos = s.frPos := rfl
@[simp] theorem backToSearch_frBuf : (backToSearch s).frBuf = s.frBuf := rfl
@[simp] theorem backToSearch_log : (backToSearch s).log = s.log := rfl
@[simp] theorem backToSearch_out : (backToSearch s).out = s.out := rfl
@[simp] theorem backToSearch_inputs : (backToSearch s).inputs = s.inputs := rfl

@[simp] theorem pushBit_cfg (b : Bit) : (pushBit b s).cfg = s.cfg := rfl
@[simp] theorem pushBit_slState (b : Bit) : (pushBit b s).slState = s.slState := rfl
@[simp] theorem pushBit_slCnt (b : Bit) : (pushBit b s).slCnt = s.slCnt := rfl
@[simp] theorem pushBit_slOnes (b : Bit) : (pushBit b s).slOnes = s.slOnes := rfl
@[simp] theorem pushBit_baN (b : Bit) : (pushBit b s).baN = s.baN + 1#4 := rfl
@[simp] theorem pushBit_baBits (b : Bit) : (pushBit b s).baBits = setBit s.baBits s.baN.toNat b := rfl
@[simp] theorem pushBit_frPos (b : Bit) : (pushBit b s).frPos = s.frPos := rfl
@[simp] theorem pushBit_frBuf (b : Bit) : (pushBit b s).frBuf = s.frBuf := rfl
@[simp] theorem pushBit_log (b : Bit) : (pushBit b s).log = s.log := rfl
@[simp] theorem pushBit_out (b : Bit) : (pushBit b s).out = s.out := rfl
@[simp] theorem pushBit_inputs (b : Bit) : (pushBit b s).inputs = s.inputs := rfl

@[simp] theorem endByteFrame_cfg : (endByteFrame s).cfg = s.cfg := rfl
@[simp] theorem endByteFrame_slState : (endByteFrame s).slState = slSearch := rfl
@[simp] theorem endByteFrame_slCnt : (endByteFrame s).slCnt = s.slCnt := rfl
@[simp] theorem endByteFrame_slOnes : (endByteFrame s).slOnes = s.slOnes := rfl
@[simp] theorem endByteFrame_baN : (endByteFrame s).baN = 0#4 := rfl
@[simp] theorem endByteFrame_baBits : (endByteFrame s).baBits = 0#10 := rfl
@[simp] theorem endByteFrame_frPos : (endByteFrame s).frPos = s.frPos := rfl
@[simp] theorem endByteFrame_frBuf : (endByteFrame s).frBuf = s.frBuf := rfl
@[simp] theorem endByteFrame_log : (endByteFrame s).log = s.log := rfl
@[simp] theorem endByteFrame_out : (endByteFrame s).out = s.out := rfl
@[simp] theorem endByteFrame_inputs : (endByteFrame s).inputs = s.inputs := rfl

@[simp] theorem takeInput_cfg : (takeInput s).cfg = s.cfg := rfl
@[simp] theorem takeInput_slState : (takeInput s).slState = s.slState := rfl
@[simp] theorem takeInput_slCnt : (takeInput s).slCnt = s.slCnt := rfl
@[simp] theorem takeInput_slOnes : (takeInput s).slOnes = s.slOnes := rfl
@[simp] theorem takeInput_baN : (takeInput s).baN = s.baN := rfl
@[simp] theorem takeInput_baBits : (takeInput s).baBits = s.baBits := rfl
@[simp] theorem takeInput_frPos : (takeInput s).frPos = s.frPos := rfl
@[simp] theorem takeInput_frBuf : (takeInput s).frBuf = s.frBuf := rfl
@[simp] theorem takeInput_log : (takeInput s).log = s.log := rfl
@[simp] theorem takeInput_out : (takeInput s).out = s.out := rfl
@[simp] theorem takeInput_inputs : (takeInput s).inputs = s.inputs.tail := rfl

@[simp] theorem presentFirst_cfg (w : BitVec 3) : (presentFirst w s).cfg = s.cfg := rfl
@[simp] theorem presentFirst_slState (w : BitVec 3) : (presentFirst w s).slState = s.slState := rfl
@[simp] theorem presentFirst_slCnt (w : BitVec 3) : (presentFirst w s).slCnt = s.slCnt := rfl
@[simp] theorem presentFirst_slOnes (w : BitVec 3) : (presentFirst w s).slOnes = s.slOnes := rfl
@[simp] theorem presentFirst_baN (w : BitVec 3) : (presentFirst w s).baN = s.baN := rfl
@[simp] theorem presentFirst_baBits (w : BitVec 3) : (presentFirst w s).baBits = s.baBits := rfl
@[simp] theorem presentFirst_frPos (w : BitVec 3) : (presentFirst w s).frPos = s.frPos := rfl
@[simp] theorem presentFirst_frBuf (w : BitVec 3) : (presentFirst w s).frBuf = s.frBuf := rfl
@[simp] theorem presentFirst_log (w : BitVec 3) : (presentFirst w s).log = s.log := rfl
@[simp] theorem presentFirst_out (w : BitVec 3) : (presentFirst w s).out = s.out := rfl
@[simp] theorem presentFirst_inputs (w : BitVec 3) : (presentFirst w s).inputs = { op := w } :: s.inputs := rfl

@[simp] theorem appended_cfg (v : Byte) : (appended v s).cfg = s.cfg := rfl
@[simp] theorem appended_slState (v : Byte) : (appended v s).slState = s.slState := rfl
@[simp] theorem appended_slCnt (v : Byte) : (appended v s).slCnt = s.slCnt := rfl
@[simp] theorem appended_slOnes (v : Byte) : (appended v s).slOnes = s.slOnes := rfl
@[simp] theorem appended_baN (v : Byte) : (appended v s).baN = s.baN := rfl
@[simp] theorem appended_baBits (v : Byte) : (appended v s).baBits = s.baBits := rfl
@[simp] theorem appended_frPos (v : Byte) : (appended v s).frPos = s.frPos + 1#9 := rfl
@[simp] theorem appended_frBuf (v : Byte) : (appended v s).frBuf = s.frBuf ++ [v] := rfl
@[simp] theorem appended_log (v : Byte) : (appended v s).log = s.log := rfl
@[simp] theorem appended_out (v : Byte) : (appended v s).out = s.out := rfl
@[simp] theorem appended_inputs (v : Byte) : (appended v s).inputs = s.inputs := rfl

@[simp] theorem resetWith_cfg (o : Outputs) : (resetWith o s).cfg = s.cfg := rfl
@[simp] theorem resetWith_slState (o : Outputs) : (resetWith o s).slState = slSearch := rfl
@[simp] theorem resetWith_slCnt (o : Outputs) : (resetWith o s).slCnt = 0#8 := rfl
@[simp] theorem resetWith_slOnes (o : Outputs) : (resetWith o s).slOnes = 0#8 := rfl
@[simp] theorem resetWith_baN (o : Outputs) : (resetWith o s).baN = 0#4 := rfl
@[simp] theorem resetWith_baBits (o : Outputs) : (resetWith o s).baBits = 0#10 := rfl
@[simp] theorem resetWith_frPos (o : Outputs) : (resetWith o s).frPos = 0#9 := rfl
@[simp] theorem resetWith_frBuf (o : Outputs) : (resetWith o s).frBuf = [] := rfl
@[simp] theorem resetWith_log (o : Outputs) : (resetWith o s).log = s.log := rfl
@[simp] theorem resetWith_out (o : Outputs) : (resetWith o s).out = o := rfl
@[simp] theorem resetWith_inputs (o : Outputs) : (resetWith o s).inputs = s.inputs := rfl

@[simp] theorem create_cfg (c : Cfg) : (State.create c).cfg = c := rfl
@[simp] theorem create_slState (c : Cfg) : (State.create c).slState = slSearch := rfl
@[simp] theorem create_frBuf (c : Cfg) : (State.create c).frBuf = [] := rfl
@[simp] theorem create_log (c : Cfg) : (State.create c).log = [] := rfl
@[simp] theorem create_inputs (c : Cfg) : (State.create c).inputs = [] := rfl
@[simp] theorem create_out (c : Cfg) : (State.create c).out = {} := rfl

end Sys2Proof.Machine
end

