-- ==== Sys2Proof/Laws/Ops.lean ====
section
/-! SUPPORT. For each shared operation, once, everything it can do. -/

namespace Sys2Proof.Machine

variable (s : State)

/-! The telegram buffer. -/

theorem memAppend_of_room {v : Byte} (h : s.frBuf.length < 261) : memAppend v s = some (appended v s) :=
  if_pos h

theorem memAppend_full {v : Byte} (h : 261 ≤ s.frBuf.length) : memAppend v s = none :=
  if_neg (Nat.not_lt.mpr h)

theorem accepted_of_room {v : Byte} {k : State → Result} (h : s.frBuf.length < 261) :
    accepted v s k = k (appended v s) := by
  simp [accepted, memAppend_of_room s h]

theorem accepted_full {v : Byte} {k : State → Result} (h : 261 ≤ s.frBuf.length) :
    accepted v s k = .fault .bufferFull := by
  simp [accepted, memAppend_full s h]

theorem accepted_next {v : Byte} {k : State → Result} {t : State} (h : accepted v s k = .next t) :
    s.frBuf.length < 261 ∧ k (appended v s) = .next t := by
  by_cases hr : s.frBuf.length < 261
  · exact ⟨hr, (accepted_of_room s hr).symm.trans h⟩
  · rw [accepted_full s (Nat.not_lt.mp hr)] at h
    cases h

theorem memAppend_keeps_wf {v : Byte} {t : State} (h : memAppend v s = some t) : t.frBuf.wf := by
  by_cases hr : s.frBuf.length < 261
  · rw [memAppend_of_room s hr] at h
    cases h
    simp [Memory.wf, Config.bufCapacity]
    omega
  · rw [memAppend_full s (Nat.not_lt.mp hr)] at h
    cases h

theorem memClear_keeps_wf : (memClear s).frBuf.wf := by simp [Memory.wf]

theorem fullReset_keeps_wf : (fullReset s).frBuf.wf := by simp [Memory.wf]

theorem reset_memory_wf : State.reset.frBuf.wf := by decide

theorem memRead_eq_getElem {i : Nat} (h : i < s.frBuf.length) : memRead i s = s.frBuf[i] := by
  simp [memRead, h]

/-- A read depends on the buffer only. -/
theorem memRead_congr {t : State} (h : t.frBuf = s.frBuf) (i : Nat) : memRead i t = memRead i s := by
  simp [memRead, h]

theorem memRead_appended_of_lt {v : Byte} {i : Nat} (h : i < s.frBuf.length) :
    memRead i (appended v s) = memRead i s := by
  simp [memRead, List.getElem?_append_left h]

theorem memRead_appended_last {v : Byte} : memRead s.frBuf.length (appended v s) = v := by
  simp [memRead]

theorem lengthByte_appended {v : Byte} (h : 1 < s.frBuf.length) :
    lengthByte (appended v s) = lengthByte s := by
  simp [lengthByte, memRead_appended_of_lt s h]

theorem memRange_appended {v : Byte} {a n : Nat} (h : a + n ≤ s.frBuf.length) :
    memRange a n (appended v s) = memRange a n s := by
  refine List.map_congr_left fun k hk => memRead_appended_of_lt s ?_
  have := List.mem_range.mp hk
  omega

theorem memRange_eq_take_drop {a n : Nat} (h : a + n ≤ s.frBuf.length) :
    memRange a n s = (s.frBuf.drop a).take n := by
  apply List.ext_getElem
  · simp [memRange]; omega
  · intro i h1 h2
    simp [memRange] at h1
    simp [memRange, memRead_eq_getElem s (show a + i < s.frBuf.length by omega)]

theorem checksum_appended {v : Byte} (h1 : 1 < s.frBuf.length) (h : 4 + lengthByte s ≤ s.frBuf.length) :
    checksum (appended v s) = checksum s := by
  simp [checksum, lengthByte_appended s h1, memRange_appended s h]

/-! The full reset and the raise action. -/

theorem fullReset_eq : fullReset s = resetWith s.out s := rfl

theorem failedWith_appended (d : Diag) (v : Byte) : failedWith d (appended v s) = failedWith d s := rfl

theorem raise_bitSync {c : Cause} (h : causeKind c = .bitSync) (e a : Byte) (p : BitVec 9) :
    raise c e a p s = s := by
  simp [raise, h]

theorem raise_framing {c : Cause} (h : causeKind c = .framing) (e a : Byte) (p : BitVec 9) :
    raise c e a p s = failedWith (diagOf c e a p) s := by
  simp only [raise, h]; rfl

theorem raise_frameGrammar {c : Cause} (h : causeKind c = .frameGrammar) (e a : Byte) (p : BitVec 9) :
    raise c e a p s = failedWith (diagOf c e a p) s := by
  simp only [raise, h]; rfl

theorem raise_payloadFormat {c : Cause} (h : causeKind c = .payloadFormat) (e a : Byte) (p : BitVec 9) :
    raise c e a p s = emitDiag (diagOf c e a 0#9) s := by
  simp [raise, h]

/-! The assembler's bit write. -/

theorem bit_cases (b : Bit) : b = 0#1 ∨ b = 1#1 := by revert b; decide

theorem setBit_getLsbD {bits : BitVec 10} {i : Nat} {b : Bit} (j : Nat) (hj : j < 10) :
    (setBit bits i b).getLsbD j = if j = i then b.getLsbD 0 else bits.getLsbD j := by
  by_cases h : j = i
  · subst h
    rcases bit_cases b with rfl | rfl <;> simp [setBit, hj]
  · by_cases h' : j < i
    · rcases bit_cases b with rfl | rfl <;> simp [setBit, hj, h, h']
    · have h0 : j - i ≠ 0 := by omega
      rcases bit_cases b with rfl | rfl <;> simp [setBit, hj, h, h', h0]

theorem setBit_toNat {bits : BitVec 10} {i : Nat} {b : Bit} (hi : i < 10) (h : bits.toNat < 2 ^ i) :
    (setBit bits i b).toNat = bits.toNat + b.toNat * 2 ^ i := by
  have hb : ∀ j, i ≤ j → bits.getLsbD j = false := fun j hj =>
    Nat.testBit_lt_two_pow (Nat.lt_of_lt_of_le h (Nat.pow_le_pow_right (by decide) hj))
  have hpow : 2 ^ i ≤ 2 ^ 9 := Nat.pow_le_pow_right (by decide) (by omega)
  have hb1 : b.toNat < 2 := b.isLt
  have hlt : bits.toNat + b.toNat * 2 ^ i < 2 ^ 10 := by
    have : b.toNat * 2 ^ i ≤ 1 * 2 ^ i := Nat.mul_le_mul_right _ (by omega)
    omega
  have : setBit bits i b = BitVec.ofNat 10 (bits.toNat + b.toNat * 2 ^ i) := by
    apply BitVec.eq_of_getLsbD_eq
    intro j hj
    rw [setBit_getLsbD j hj, BitVec.getLsbD_ofNat, Nat.add_comm, Nat.mul_comm,
      Nat.testBit_two_pow_mul_add _ h]
    rcases Nat.lt_trichotomy j i with hlt' | heq | hgt
    · simp [hj, hlt', Nat.ne_of_lt hlt', BitVec.getLsbD]
    · subst heq; simp [hj, BitVec.getLsbD]
    · have : b.toNat.testBit (j - i) = false :=
        Nat.testBit_lt_two_pow (Nat.lt_of_lt_of_le hb1 (Nat.pow_le_pow_right (n := 2) (i := 1) (by decide) (by omega)))
      simpa [hj, Nat.not_lt_of_gt hgt, Nat.ne_of_gt hgt, this] using hb j (Nat.le_of_lt hgt)
  rw [this, BitVec.toNat_ofNat, Nat.mod_eq_of_lt hlt]

/-! The date-time decode. -/

theorem decodeDateTime_short {p : List Byte} (h : p.length < 7) :
    decodeDateTime p = .error { cause := .payloadTooShort, expected := 7#8, actual := BitVec.ofNat 8 p.length } := by
  match p with
  | [] | [_] | [_, _] | [_, _, _] | [_, _, _, _] | [_, _, _, _, _] | [_, _, _, _, _, _] => rfl
  | _ :: _ :: _ :: _ :: _ :: _ :: _ :: _ => simp at h; omega

theorem decodeDateTime_error {p : List Byte} {f : DecodeFailure} (h : decodeDateTime p = .error f) :
    causeKind f.cause = .payloadFormat := by
  by_cases hl : p.length < 7
  · rw [decodeDateTime_short hl] at h
    cases h; rfl
  · match p, hl with
    | p0 :: _ :: _ :: _ :: _ :: _ :: _ :: _, _ =>
      simp only [decodeDateTime] at h
      split at h
      · cases h
      · cases h; rfl
    | [], h' | [_], h' | [_, _], h' | [_, _, _], h' | [_, _, _, _], h' | [_, _, _, _, _], h'
    | [_, _, _, _, _, _], h' => exact absurd (by simp) h'

theorem dateTimeOf_fits (p1 p2 p3 p4 p5 p6 : Byte) :
    recordFits (.dateTime (dateTimeOf p1 p2 p3 p4 p5 p6)) = true := by
  have := p6.isLt
  simp [recordFits, dateTimeOf, BitVec.toNat_add]
  omega

theorem decodeDateTime_ok_fits {p : List Byte} {d : DateTime} (h : decodeDateTime p = .ok d) :
    recordFits (.dateTime d) = true := by
  unfold decodeDateTime at h
  split at h
  · split at h
    · cases h; exact dateTimeOf_fits ..
    · cases h
  · cases h

theorem buildTelegram_fits : recordFits (.generic (buildTelegram s)) = true := by
  have : lengthByte s < 256 := (memRead 1 s).isLt
  simp [recordFits, buildTelegram, memRange]
  omega

/-! Selectors and splits. -/

/-- The split of ten data bits written stop, parity, payload. -/
theorem split_append (t p : Bit) (d : Byte) :
    payloadOf (t ++ p ++ d) = d ∧ parityOf (t ++ p ++ d) = p ∧ stopOf (t ++ p ++ d) = t := by
  revert t p d; decide

theorem completionRow_append (t p : Bit) (d : Byte) :
    completionRow (t ++ p ++ d) =
      if t = 0#1 then .failStop else if parityOdd d p then .failParity else .ok := by
  obtain ⟨hd, hp, ht⟩ := split_append t p d
  simp only [completionRow, hd, hp, ht]

/-- The selector of a slicer row, `{SL_STATE, x}`, splits into its two fields. -/
theorem selector_state (w : BitVec 2) (x : Bit) : (w ++ x).extractLsb' 1 2 = w := by revert w x; decide

theorem selector_sample (w : BitVec 2) (x : Bit) : (w ++ x).extractLsb' 0 1 = x := by revert w x; decide

theorem addresses_append_eq_zero (a b : Byte) : a ++ b = 0x0000#16 ↔ a = 0#8 ∧ b = 0#8 := by
  have h : (a ++ b : BitVec 16).toNat = a.toNat * 256 + b.toNat := by
    show BitVec.toNat (w := 8 + 8) (a ++ b) = _
    rw [BitVec.toNat_append, ← Nat.shiftLeft_add_eq_or_of_lt b.isLt, Nat.shiftLeft_eq]
  rw [← BitVec.toNat_inj, h, ← BitVec.toNat_inj, ← BitVec.toNat_inj]
  simp

/-- The framer row of a position at or beyond 5 (the four before it are told by p alone). -/
theorem framerRow_body {p l : Nat} (h : 5 ≤ p) (hl : p ≤ 4 + l) : framerRow p l = some .body := by
  simp [framerRow, show p ≠ 1 by omega, show p ≠ 2 by omega, show p ≠ 3 by omega, show p ≠ 4 by omega, h, hl]

theorem framerRow_csum (l : Nat) : framerRow (5 + l) l = some .csum := by
  simp [framerRow, show 5 + l ≠ 1 by omega, show 5 + l ≠ 2 by omega, show 5 + l ≠ 3 by omega,
    show 5 + l ≠ 4 by omega, show ¬ 5 + l ≤ 4 + l by omega]

theorem framerRow_stop (l : Nat) : framerRow (6 + l) l = some .stop := by
  simp [framerRow, show 6 + l ≠ 1 by omega, show 6 + l ≠ 2 by omega, show 6 + l ≠ 3 by omega,
    show 6 + l ≠ 4 by omega, show ¬ 6 + l ≤ 4 + l by omega]

theorem framerRow_ne_none {p l : Nat} (h1 : 1 ≤ p) (h : p ≤ 4 ∨ p ≤ 6 + l) : framerRow p l ≠ none := by
  unfold framerRow
  split
  · simp
  split
  · simp
  split
  · simp
  split
  · simp
  split
  · simp
  split
  · simp
  split
  · simp
  · omega

end Sys2Proof.Machine
end

