-- ==== Sys2Proof/Laws/Machine.lean ====
section
/-! SUPPORT. What each layer, and a step, can do: one lemma a layer, cited instead of unfolding it. -/

namespace Sys2Proof.Machine

variable {s t : State}

/-- The interpreter always answers a next state: LOG grows by `recordOf`, the outputs by the record and at most a
PayloadFormatError, and nothing else changes (44_interpreter.md R145). -/
theorem interpret_next (g : Generic) (s : State) :
    ∃ o, interpret g s = .next { s with log := s.log ++ (recordOf s.cfg g).toList, out := o } ∧
      o.byte = s.out.byte ∧ o.tg = s.out.tg ∧ (s.out.record = none → o.record = recordOf s.cfg g) ∧
      (o.diag = s.out.diag ∨ ∃ d, o.diag = some d ∧ d.kind = 3#2 ∧ d.pos = 0#9) := by
  by_cases hz : g.address1 = 0#8 ∧ g.address2 = 0#8
  · have hr : interpreterRow g = .zeroAddr := by simp [interpreterRow, Generic.addressesZero, hz]
    simp only [interpret, hr, execZeroAddr, recordOf, hz, and_self, if_true]
    cases hd : decodeDateTime g.payload with
    | ok d => exact ⟨_, rfl, rfl, rfl, fun _ => rfl, .inl rfl⟩
    | error f =>
      have hk := decodeDateTime_error hd
      simp only [failDecode, raise_payloadFormat _ hk]
      cases hc : s.cfg.dtFailKeepsGeneric with
      | true => exact ⟨_, rfl, rfl, rfl, fun _ => rfl, .inr ⟨_, rfl, by simp [diagOf, hk, kindCode], rfl⟩⟩
      | false =>
        refine ⟨{ s.out with diag := some (diagOf f.cause f.expected f.actual 0#9) }, ?_, rfl, rfl, ?_, ?_⟩
        · simp [emitDiag]
        · intro h; simpa using h
        · exact .inr ⟨_, rfl, by simp [diagOf, hk, kindCode], rfl⟩
  · have hr : interpreterRow g = .nonzeroAddr :=
      if_neg (by simpa [Generic.addressesZero] using hz)
    simp only [interpret, hr, execNonzeroAddr, recordOf, hz, if_false]
    exact ⟨_, rfl, rfl, rfl, fun _ => rfl, .inl rfl⟩

/-- The state FR_STOP hands to the interpreter (43_telegram_framer.md R130, R131). -/
def stopped (v : Byte) (s : State) : State :=
  emitTelegram (buildTelegram (appended v s)) (memClear (appended v s))

/-- A byte the framer accepts goes on, fails with a FrameGrammarError and a full reset, or completes a telegram
(43_telegram_framer.md R121 to R132). -/
theorem acceptByte_cases {v : Byte} (h : acceptByte v s = .next t) :
    s.frBuf.length < 261 ∧
    (t = appended v s ∨
     (∃ d, t = failedWith d s ∧ d.kind = 2#2) ∨
     (framerRow (s.frPos.toNat + 1) (lengthByte s) = some .stop ∧ v = Config.stopChar ∧
       interpret (buildTelegram (appended v s)) (stopped v s) = .next t)) := by
  unfold acceptByte at h
  cases hr : framerRow (s.frPos.toNat + 1) (lengthByte s) with
  | none => rw [hr] at h; cases h
  | some r =>
    rw [hr] at h
    cases r with
    | p1 | p4 =>
      obtain ⟨hl, h⟩ := accepted_next s h
      split at h
      · cases h; exact ⟨hl, .inl rfl⟩
      · rw [raise_frameGrammar _ rfl] at h
        cases h; exact ⟨hl, .inr (.inl ⟨_, rfl, rfl⟩)⟩
    | p2 | body =>
      obtain ⟨hl, h⟩ := accepted_next s h
      cases h; exact ⟨hl, .inl rfl⟩
    | p3 =>
      obtain ⟨hl, h⟩ := accepted_next s h
      split at h
      · rw [raise_frameGrammar _ rfl] at h
        cases h; exact ⟨hl, .inr (.inl ⟨_, rfl, rfl⟩)⟩
      · split at h
        · rw [raise_frameGrammar _ rfl] at h
          cases h; exact ⟨hl, .inr (.inl ⟨_, rfl, rfl⟩)⟩
        · cases h; exact ⟨hl, .inl rfl⟩
    | csum =>
      obtain ⟨hl, h⟩ := accepted_next s h
      split at h
      · cases h; exact ⟨hl, .inl rfl⟩
      · rw [raise_frameGrammar _ rfl] at h
        cases h; exact ⟨hl, .inr (.inl ⟨_, rfl, rfl⟩)⟩
    | stop =>
      obtain ⟨hl, h⟩ := accepted_next s h
      split at h
      · next hv => exact ⟨hl, .inr (.inr ⟨rfl, hv, h⟩)⟩
      · rw [raise_frameGrammar _ rfl] at h
        cases h; exact ⟨hl, .inr (.inl ⟨_, rfl, rfl⟩)⟩

/-- A position a rule names, and room for the byte, are all the framer needs to answer a next state. -/
theorem acceptByte_completes {v : Byte} (hl : s.frBuf.length < 261)
    (hr : framerRow (s.frPos.toNat + 1) (lengthByte s) ≠ none) : ∃ t, acceptByte v s = .next t := by
  unfold acceptByte
  cases h : framerRow (s.frPos.toNat + 1) (lengthByte s) with
  | none => exact absurd h hr
  | some r =>
    cases r with
    | p1 | p4 | csum =>
      simp only [execFrP1, execFrP4, execFrCsum, accepted_of_room s hl]
      split <;> exact ⟨_, rfl⟩
    | p2 | body => exact ⟨_, accepted_of_room s hl⟩
    | p3 =>
      simp only [execFrP3, accepted_of_room s hl]
      split
      · exact ⟨_, rfl⟩
      · split <;> exact ⟨_, rfl⟩
    | stop =>
      simp only [execFrStop, accepted_of_room s hl]
      split
      · obtain ⟨o, ho, _⟩ := interpret_next (buildTelegram (appended v s)) (stopped v s)
        exact ⟨_, ho⟩
      · exact ⟨_, rfl⟩

/-- The state BA_OK hands to the framer (42_byte_assembler.md R116, R118). -/
def framed (d : Byte) (s : State) : State := emitByte d (endByteFrame s)

/-- A delivered bit is pushed, or completes a byte-frame that fails with a FramingError or is handed to the framer
(42_byte_assembler.md R113 to R118). -/
theorem deliverBit_cases {b : Bit} (h : deliverBit b s = .next t) :
    (s.baN.toNat ≤ 8 ∧ t = pushBit b s) ∨
    (s.baN.toNat = 9 ∧
      ((∃ d, t = failedWith d s ∧ d.kind = 1#2 ∧ d.pos = nextPos s) ∨
       acceptByte (payloadOf (pushBit b s).baBits)
         (framed (payloadOf (pushBit b s).baBits) (pushBit b s)) = .next t)) := by
  simp only [deliverBit, assemblerRow] at h
  by_cases h8 : s.baN.toNat ≤ 8
  · simp only [h8, if_true, execBaPush] at h
    cases h; exact .inl ⟨h8, rfl⟩
  · by_cases h9 : s.baN.toNat = 9
    · refine .inr ⟨h9, ?_⟩
      simp only [h9, if_true, execBaComplete] at h
      cases hc : completionRow (pushBit b s).baBits with
      | failStop =>
        rw [hc] at h
        simp only [execBaFailStop, raise_framing _ (c := .wrongStopBit) rfl] at h
        cases h; exact .inl ⟨_, rfl, rfl, rfl⟩
      | failParity =>
        rw [hc] at h
        simp only [execBaFailParity, raise_framing _ (c := .wrongParity) rfl] at h
        cases h; exact .inl ⟨_, rfl, rfl, rfl⟩
      | ok => rw [hc] at h; exact .inr h
    · simp [h8, h9] at h

/-- One sample moves the slicer, or delivers a bit in the step that ends a data symbol (41_bitslicer.md R102 to
R105). -/
theorem runSample_cases {x : Bit} (h : runSample x s = .next t) :
    (s.slState = slSearch ∧ (t = s ∨ (s.cfg.n ≠ 1 ∧ t = setSlicer slConfirm 1#8 0#8 s) ∨
      (s.cfg.n = 1 ∧ t = startSampling s))) ∨
    (s.slState = slConfirm ∧
      ((s.slCnt.toNat + 1 ≠ s.cfg.n ∧ t = countSample x s) ∨
       (s.slCnt.toNat + 1 = s.cfg.n ∧ (t = startSampling s ∨ t = backToSearch s)))) ∨
    (s.slState = slSample ∧
      ((s.slCnt.toNat + 1 ≠ s.cfg.n ∧ t = countSample x s) ∨
       (s.slCnt.toNat + 1 = s.cfg.n ∧
        deliverBit (majority (onesWith x s) s.cfg.n) (setSlicer s.slState 0#8 0#8 s) = .next t))) := by
  have hst : s.slState = slSearch ∨ s.slState = slConfirm ∨ s.slState = slSample ∨ s.slState = 0b11#2 := by
    generalize s.slState = w; revert w; decide
  unfold runSample at h
  simp only [slicerSelect, slicerRow, selector_state, selector_sample, lastSample] at h
  rcases hst with hs | hs | hs | hs <;> rw [hs] at h
  · refine .inl ⟨hs, ?_⟩
    rcases bit_cases x with rfl | rfl
    · simp only [slSearch, if_true, execSearchStart] at h
      by_cases hn : s.cfg.n = 1
      · simp [hn, confirmDecide, startConfirmed, execConfirmOk] at h
        exact .inr (.inr ⟨hn, h.symm⟩)
      · simp [hn] at h
        exact .inr (.inl ⟨hn, h.symm⟩)
    · simp [slSearch, execSearchIdle] at h
      exact .inl h.symm
  · refine .inr (.inl ⟨hs, ?_⟩)
    by_cases hl : s.slCnt.toNat + 1 = s.cfg.n
    · refine .inr ⟨hl, ?_⟩
      cases hc : startConfirmed (onesWith x s) s.cfg.n with
      | true => simp [slConfirm, hl, hc, execConfirmOk] at h; exact .inl h.symm
      | false =>
        simp [slConfirm, hl, hc, execConfirmFail, raise_bitSync _ (c := .startNotConfirmed) rfl] at h
        exact .inr h.symm
    · simp [slConfirm, hl, execConfirmAcc] at h
      exact .inl ⟨hl, h.symm⟩
  · refine .inr (.inr ⟨hs, ?_⟩)
    by_cases hl : s.slCnt.toNat + 1 = s.cfg.n
    · simp only [slSample, hl, execSampleDecide] at h
      exact .inr ⟨hl, by simpa [hs, slSample] using h⟩
    · simp [slSample, hl, execSampleAcc] at h
      exact .inl ⟨hl, h.symm⟩
  · simp [execSlicerReserved11] at h

/-- A verified byte is refused only for its position (30_encoding.md R86). -/
theorem acceptByte_refused {v : Byte} {r : Refusal} (h : acceptByte v s = .refused r) :
    r = .framerPositionReserved := by
  by_cases hl : s.frBuf.length < 261
  · by_cases hr : framerRow (s.frPos.toNat + 1) (lengthByte s) = none
    · simp only [acceptByte, hr] at h
      cases h; rfl
    · obtain ⟨t, ht⟩ := acceptByte_completes (v := v) hl hr
      rw [ht] at h; cases h
  · have hn : memAppend v s = none := if_neg hl
    unfold acceptByte at h
    split at h <;> first
      | (cases h; rfl)
      | simp [execFrP1, execFrP2, execFrP3, execFrP4, execFrBody, execFrCsum, execFrStop, accepted, hn] at h

/-- A delivered bit is refused only for BA_N or for the byte's position (30_encoding.md R86). -/
theorem deliverBit_refused {b : Bit} {r : Refusal} (h : deliverBit b s = .refused r) :
    r = .assemblerIndexReserved ∨ r = .framerPositionReserved := by
  unfold deliverBit at h
  split at h
  · cases h
  · simp only [execBaComplete] at h
    split at h
    · cases h
    · cases h
    · exact .inr (acceptByte_refused h)
  · cases h; exact .inl rfl

/-- A sample is refused for SL_STATE = 11, or for what the bit it delivers meets (30_encoding.md R86, R89). -/
theorem runSample_refused {x : Bit} {r : Refusal} (h : runSample x s = .refused r) :
    (r = .slicerStateReserved ∧ s.slState = 0b11#2) ∨ r = .assemblerIndexReserved ∨ r = .framerPositionReserved := by
  unfold runSample at h
  split at h
  · cases h
  · unfold execSearchStart confirmDecide at h
    split at h
    · split at h <;> cases h
    · cases h
  · cases h
  · cases h
  · cases h
  · cases h
  · exact .inr (deliverBit_refused h)
  · next hsel =>
    cases h
    refine .inl ⟨rfl, ?_⟩
    simp only [slicerSelect, slicerRow, selector_state] at hsel
    split at hsel
    · split at hsel <;> cases hsel
    · split at hsel
      · split at hsel
        · split at hsel <;> cases hsel
        · cases hsel
      · split at hsel
        · split at hsel <;> cases hsel
        · have h4 : ∀ w : BitVec 2, w ≠ 0b00#2 → w ≠ 0b01#2 → w ≠ 0b10#2 → w = 0b11#2 := by decide
          exact h4 _ ‹_› ‹_› ‹_›

/-- What a step refuses nothing of: SL_STATE is not 11 and the configuration is not refused (30_encoding.md R89). -/
theorem stepRefusal_eq_none {i : HostInput} :
    stepRefusal i s = none ↔ s.slState ≠ 0b11#2 ∧ inputRefusal i s = none := by
  unfold stepRefusal stateRefusal
  by_cases h : s.slState = 0b11#2 <;> simp [h]

/-- A state that holds SL_STATE = 11 is refused, whatever the operation (30_encoding.md R89). -/
theorem step_reserved (h : s.slState = 0b11#2) : step s = .refused .slicerStateReserved := by
  simp [step, stepRefusal, stateRefusal, h]

/-- The state an admitted operation runs in. -/
def atStart (s : State) : State := latchConfig (nextInput s) (takeInput s)

/-- A step of which nothing is refused runs the decoded operation. -/
theorem step_of_unrefused (h : stepRefusal (nextInput s) s = none) :
    step s = exec (decodeOp (nextInput s).op) (atStart s) := by
  simp only [step, h, atStart]

/-- With a legal configuration and none asked for, no configuration is refused. -/
theorem inputRefusal_of_none {i : HostInput} (h : s.cfg.Legal) (hc : i.cfg = none) : inputRefusal i s = none := by
  simp only [inputRefusal, if_pos h, hc]

/-- A step that answers a next state ran one of the three operations, from a legal configuration and a legal slicer
state; only a RESET may have brought a new configuration, which is legal (70_reset_and_hazards.md R170). -/
theorem step_cases (h : step s = .next t) :
    s.slState ≠ 0b11#2 ∧ s.cfg.Legal ∧
    ((∃ x, decodeOp (nextInput s).op = .nop x ∧ (atStart s).cfg = s.cfg ∧ t = clearOut (atStart s)) ∨
     (∃ x, decodeOp (nextInput s).op = .ingest x ∧ (atStart s).cfg = s.cfg ∧
        runSample x (clearOut (atStart s)) = .next t) ∨
     (∃ v x, decodeOp (nextInput s).op = .reset v x ∧ (atStart s).cfg.Legal ∧
        t = fullReset (clearOut (atStart s)))) := by
  unfold step at h
  cases hr : stepRefusal (nextInput s) s with
  | some r => rw [hr] at h; cases h
  | none =>
    rw [hr] at h
    obtain ⟨hstate, ha⟩ := stepRefusal_eq_none.mp hr
    by_cases hl : s.cfg.Legal
    · refine ⟨hstate, hl, ?_⟩
      simp only [inputRefusal, if_pos hl] at ha
      have hcfg : (atStart s).cfg = s.cfg ∨
          (isResetWord (nextInput s).op = true ∧ (atStart s).cfg.Legal) := by
        cases hc : (nextInput s).cfg with
        | none => left; simp [atStart, latchConfig, hc]
        | some c =>
          simp only [hc] at ha
          by_cases he : c = s.cfg
          · left; simp [atStart, latchConfig, hc, he]
          · rw [if_neg he] at ha
            by_cases hr : isResetWord (nextInput s).op = true
            · rw [if_pos hr] at ha
              by_cases hcl : c.Legal
              · exact .inr ⟨hr, by simpa only [atStart, latchConfig, hc] using hcl⟩
              · rw [if_neg hcl] at ha; cases ha
            · rw [if_neg hr] at ha; cases ha
      by_cases h2 : (nextInput s).op.extractLsb' 2 1 = 1#1
      · have hd : decodeOp (nextInput s).op =
            .reset ((nextInput s).op.extractLsb' 1 1) ((nextInput s).op.extractLsb' 0 1) := by
          simp [decodeOp, h2]
        simp only [hd, exec, execReset] at h
        cases h
        refine .inr (.inr ⟨_, _, hd, ?_, rfl⟩)
        rcases hcfg with hcfg | ⟨_, hcfg⟩
        · rw [hcfg]; exact hl
        · exact hcfg
      · have hcfg' : (atStart s).cfg = s.cfg := by
          rcases hcfg with hcfg | ⟨hr, _⟩
          · exact hcfg
          · simp [isResetWord, h2] at hr
        by_cases h1 : (nextInput s).op.extractLsb' 1 1 = 1#1
        · have hd : decodeOp (nextInput s).op = .ingest ((nextInput s).op.extractLsb' 0 1) := by
            simp only [decodeOp]; rw [if_neg h2, if_pos h1]
          simp only [hd, exec, execIngest] at h
          exact .inr (.inl ⟨_, hd, hcfg', h⟩)
        · have hd : decodeOp (nextInput s).op = .nop ((nextInput s).op.extractLsb' 0 1) := by
            simp only [decodeOp]; rw [if_neg h2, if_neg h1]
          simp only [hd, exec, execNop] at h
          cases h
          exact .inl ⟨_, hd, hcfg', rfl⟩
    · rw [inputRefusal, if_neg hl] at ha; cases ha

@[simp] theorem atStart_slState : (atStart s).slState = s.slState := by simp [atStart, latchConfig]; split <;> rfl
@[simp] theorem atStart_slCnt : (atStart s).slCnt = s.slCnt := by simp [atStart, latchConfig]; split <;> rfl
@[simp] theorem atStart_slOnes : (atStart s).slOnes = s.slOnes := by simp [atStart, latchConfig]; split <;> rfl
@[simp] theorem atStart_baN : (atStart s).baN = s.baN := by simp [atStart, latchConfig]; split <;> rfl
@[simp] theorem atStart_baBits : (atStart s).baBits = s.baBits := by simp [atStart, latchConfig]; split <;> rfl
@[simp] theorem atStart_frPos : (atStart s).frPos = s.frPos := by simp [atStart, latchConfig]; split <;> rfl
@[simp] theorem atStart_frBuf : (atStart s).frBuf = s.frBuf := by simp [atStart, latchConfig]; split <;> rfl
@[simp] theorem atStart_log : (atStart s).log = s.log := by simp [atStart, latchConfig]; split <;> rfl
@[simp] theorem atStart_inputs : (atStart s).inputs = s.inputs.tail := by
  simp [atStart, latchConfig]; split <;> rfl

end Sys2Proof.Machine
end

