-- ==== Sys2Proof/Laws/PerInstr.lean ====
section
/-! SUPPORT. For every instruction: the word the encoder gives it matches the match and mask of its row of
spec/opcode_table.json, or its row's selector where the row has no mask. -/

namespace Sys2Proof.Laws.Encoding

/-- The row's pattern, as spec/opcode_table.json prints it. -/
def Statement : Instr → Prop
  | .nop x => ∃ w, encode (.nop x) = .operation w ∧ w &&& 0b110#3 = 0b000#3
  | .ingest x => ∃ w, encode (.ingest x) = .operation w ∧ w &&& 0b110#3 = 0b010#3
  | .reset v x => ∃ w, encode (.reset v x) = .operation w ∧ w &&& 0b100#3 = 0b100#3
  | .searchIdle => ∃ w a b, encode .searchIdle = .slicer w a b ∧ w &&& 0b111#3 = 0b001#3
  | .searchStart => ∃ w a b, encode .searchStart = .slicer w a b ∧ w &&& 0b111#3 = 0b000#3
  | .confirmAcc x => ∃ w b, encode (.confirmAcc x) = .slicer w false b ∧ w &&& 0b110#3 = 0b010#3
  | .confirmOk x => ∃ w, encode (.confirmOk x) = .slicer w true true ∧ w &&& 0b110#3 = 0b010#3
  | .confirmFail x => ∃ w, encode (.confirmFail x) = .slicer w true false ∧ w &&& 0b110#3 = 0b010#3
  | .sampleAcc x => ∃ w b, encode (.sampleAcc x) = .slicer w false b ∧ w &&& 0b110#3 = 0b100#3
  | .sampleDecide x => ∃ w b, encode (.sampleDecide x) = .slicer w true b ∧ w &&& 0b110#3 = 0b100#3
  | .slicerReserved11 x => ∃ w a b, encode (.slicerReserved11 x) = .slicer w a b ∧ w &&& 0b110#3 = 0b110#3
  | .baPush b => ∃ n, encode (.baPush b) = .assembler n b ∧ n.toNat ≤ 8
  | .baComplete b => ∃ n, encode (.baComplete b) = .assembler n b ∧ n &&& 0b1111#4 = 0b1001#4
  | .baFailStop p d => ∃ w, encode (.baFailStop p d) = .completion w ∧ w &&& 0b1000000000#10 = 0b0000000000#10
  | .baFailParity p d => ∃ w, encode (.baFailParity p d) = .completion w ∧ w &&& 0b1000000000#10 = 0b1000000000#10
  | .baOk p d => ∃ w, encode (.baOk p d) = .completion w ∧ w &&& 0b1000000000#10 = 0b1000000000#10
  | .frP1 v => ∃ l, encode (.frP1 v) = .framer 1 l v
  | .frP2 v => ∃ l, encode (.frP2 v) = .framer 2 l v
  | .frP3 v => ∃ l, encode (.frP3 v) = .framer 3 l v
  | .frP4 v => ∃ l, encode (.frP4 v) = .framer 4 l v
  | .frBody v => ∃ p l, encode (.frBody v) = .framer p l v ∧ 5 ≤ p ∧ p ≤ 4 + l
  | .frCsum v => ∃ l, encode (.frCsum v) = .framer (5 + l) l v
  | .frStop v => ∃ l, encode (.frStop v) = .framer (6 + l) l v
  | .zeroAddr t => encode (.zeroAddr t) = .interpreter t
  | .nonzeroAddr t => encode (.nonzeroAddr t) = .interpreter t

theorem nop (x : Bit) : Statement (.nop x) := ⟨_, rfl, by revert x; decide⟩
theorem ingest (x : Bit) : Statement (.ingest x) := ⟨_, rfl, by revert x; decide⟩
theorem reset (v x : Bit) : Statement (.reset v x) := ⟨_, rfl, by revert v x; decide⟩
theorem searchIdle : Statement .searchIdle := ⟨_, _, _, rfl, by decide⟩
theorem searchStart : Statement .searchStart := ⟨_, _, _, rfl, by decide⟩
theorem confirmAcc (x : Bit) : Statement (.confirmAcc x) := ⟨_, _, rfl, by revert x; decide⟩
theorem confirmOk (x : Bit) : Statement (.confirmOk x) := ⟨_, rfl, by revert x; decide⟩
theorem confirmFail (x : Bit) : Statement (.confirmFail x) := ⟨_, rfl, by revert x; decide⟩
theorem sampleAcc (x : Bit) : Statement (.sampleAcc x) := ⟨_, _, rfl, by revert x; decide⟩
theorem sampleDecide (x : Bit) : Statement (.sampleDecide x) := ⟨_, _, rfl, by revert x; decide⟩
theorem slicerReserved11 (x : Bit) : Statement (.slicerReserved11 x) := ⟨_, _, _, rfl, by revert x; decide⟩
theorem baPush (b : Bit) : Statement (.baPush b) := ⟨_, rfl, by decide⟩
theorem baComplete (b : Bit) : Statement (.baComplete b) := ⟨_, rfl, by decide⟩
theorem baFailStop (p : Bit) (d : Byte) : Statement (.baFailStop p d) := ⟨_, rfl, by revert p d; decide⟩
theorem baFailParity (p : Bit) (d : Byte) : Statement (.baFailParity p d) := ⟨_, rfl, by revert p d; decide⟩
theorem baOk (p : Bit) (d : Byte) : Statement (.baOk p d) := ⟨_, rfl, by revert p d; decide⟩
theorem frP1 (v : Byte) : Statement (.frP1 v) := ⟨_, rfl⟩
theorem frP2 (v : Byte) : Statement (.frP2 v) := ⟨_, rfl⟩
theorem frP3 (v : Byte) : Statement (.frP3 v) := ⟨_, rfl⟩
theorem frP4 (v : Byte) : Statement (.frP4 v) := ⟨_, rfl⟩
theorem frBody (v : Byte) : Statement (.frBody v) := ⟨_, _, rfl, by decide⟩
theorem frCsum (v : Byte) : Statement (.frCsum v) := ⟨_, rfl⟩
theorem frStop (v : Byte) : Statement (.frStop v) := ⟨_, rfl⟩
theorem zeroAddr (t : Generic) : Statement (.zeroAddr t) := rfl
theorem nonzeroAddr (t : Generic) : Statement (.nonzeroAddr t) := rfl

end Sys2Proof.Laws.Encoding
end

