-- ==== Sys2Proof/Tests/Slice0.lean ====
section
/-! SUPPORT. Tests of one step each, with the results 95_test_vectors.md gives, and for every obligation with
hypotheses a concrete state and operands that meet them. -/

namespace Sys2Proof.Tests

open Sys2Proof Sys2Proof.Machine

/-! Small states. -/

/-- A new session with N = n and the default policy. -/
def session (n : Nat) : State := State.create { n := n, dtFailKeepsGeneric := false }

/-- A new session with N = 10 that keeps a failed date-time telegram. -/
def keeping : State := State.create { n := 10, dtFailKeepsGeneric := true }

/-- The slicer registers set. -/
def slicer (state : BitVec 2) (cnt ones : BitVec 8) (s : State) : State := setSlicer state cnt ones s

/-- The assembler registers set. -/
def assembler (n : BitVec 4) (bits : BitVec 10) (s : State) : State := { s with baN := n, baBits := bits }

/-- The telegram buffer set, with FR_POS its length. -/
def buffer (bs : List Byte) (s : State) : State := { s with frBuf := bs, frPos := BitVec.ofNat 9 bs.length }

/-- The last sample of the tenth data bit, N = 10, all samples so far 1, with the nine bits held. -/
def tenth (nine : BitVec 9) (s : State) : State := assembler 9#4 (0#1 ++ nine) (slicer slSample 9#8 9#8 s)

/-- The slicer and assembler registers of a next state. -/
def regs (r : Result) : Option (BitVec 2 × BitVec 8 × BitVec 8 × BitVec 4 × BitVec 10) :=
  (nextState r).map fun t => (t.slState, t.slCnt, t.slOnes, t.baN, t.baBits)

/-- The framer registers of a next state. -/
def framer (r : Result) : Option (BitVec 9 × List Byte) := (nextState r).map fun t => (t.frPos, t.frBuf)

/-- The outputs of a next state. -/
def outs (r : Result) : Option Outputs := (nextState r).map fun t => t.out

/-- The diagnostic of a next state. -/
def diag (r : Result) : Option Diag := (nextState r).bind fun t => t.out.diag

/-- The log of a next state. -/
def log (r : Result) : Option (List Record) := (nextState r).map fun t => t.log

theorem next_of_isSome {r : Result} (h : (nextState r).isSome = true) : ∃ t, r = .next t := by
  cases r with
  | next t => exact ⟨t, rfl⟩
  | fault f => cases h
  | refused f => cases h

/-- `k` zero bytes. -/
def zeros (k : Nat) : List Byte := List.replicate k 0#8

theorem zeros_length (k : Nat) : (zeros k).length = k := List.length_replicate

/-- The nine bytes of vector V-F9 (95_test_vectors.md 2.4) before its stop character. -/
def vf9 : List Byte := [0x68#8, 0x04#8, 0x04#8, 0x68#8, 0x21#8, 0x12#8, 0x34#8, 0x56#8, 0xBD#8]

/-- The telegram of vector V-F9. -/
def vf9Telegram : Generic := ⟨2#4, 0x12#8, 0x34#8, [0x56#8], 0xBD#8⟩

/-- A zero-address telegram with the payload given. -/
def zeroTelegram (payload : List Byte) : Generic := ⟨1#4, 0#8, 0#8, payload, 0x57#8⟩

/-- The payload of scenario C (95_test_vectors.md 1.7). -/
def scenarioC : List Byte := [0x00#8, 0x78#8, 0x2C#8, 0x15#8, 0x6F#8, 0x07#8, 0x18#8]

/-! WellFormed: what it refuses (30_encoding.md R78, R86). -/

theorem test_wf_refuses_fail_parity_with_even_parity : (Instr.baFailParity 1#1 0x68#8).wellFormed = false := by decide
theorem test_wf_refuses_ok_with_odd_parity : (Instr.baOk 0#1 0x68#8).wellFormed = false := by decide
theorem test_wf_refuses_zero_addr_with_an_address : (Instr.zeroAddr vf9Telegram).wellFormed = false := by decide
theorem test_wf_refuses_nonzero_addr_without_one : (Instr.nonzeroAddr (zeroTelegram [])).wellFormed = false := by decide
theorem test_wf_refuses_a_long_zero_payload :
    (Instr.zeroAddr (zeroTelegram (zeros 253))).wellFormed = false := by
  simp [Instr.wellFormed, Generic.wellFormed, Generic.addressesZero, Config.maxPayload, zeroTelegram, zeros_length]
theorem test_wf_refuses_a_long_nonzero_payload :
    (Instr.nonzeroAddr ⟨0#4, 1#8, 0#8, zeros 253, 0#8⟩).wellFormed = false := by
  simp [Instr.wellFormed, Generic.wellFormed, Generic.addressesZero, Config.maxPayload, zeros_length]
theorem test_wf_takes_the_longest_payload :
    (Instr.nonzeroAddr ⟨0#4, 1#8, 0#8, zeros 252, 0#8⟩).wellFormed = true := by
  simp [Instr.wellFormed, Generic.wellFormed, Generic.addressesZero, Config.maxPayload, zeros_length]

/-! Words written bit by bit from the patterns of the spec. -/

/-- 30_encoding.md R62 to R65: the eight operation words. -/
theorem test_decode_operation_words :
    [0b000#3, 0b001#3, 0b010#3, 0b011#3, 0b100#3, 0b101#3, 0b110#3, 0b111#3].map decodeOp =
      [.nop 0#1, .nop 1#1, .ingest 0#1, .ingest 1#1, .reset 0#1 0#1, .reset 0#1 1#1, .reset 1#1 0#1,
        .reset 1#1 1#1] := by decide

/-- 30_encoding.md R85: the eight slicer rows. -/
theorem test_decode_slicer_selectors :
    [slicerRow 0b001#3 false false, slicerRow 0b000#3 false true, slicerRow 0b011#3 false true,
      slicerRow 0b010#3 true true, slicerRow 0b011#3 true false, slicerRow 0b101#3 false false,
      slicerRow 0b100#3 true true, slicerRow 0b111#3 true true] =
    [.searchIdle, .searchStart, .confirmAcc, .confirmOk, .confirmFail, .sampleAcc, .sampleDecide,
      .reserved11] := by decide

/-- 30_encoding.md R86: BA_N 0 and 8 push, 9 completes, 10 and 15 are no row. -/
theorem test_decode_assembler_selectors :
    [0b0000#4, 0b1000#4, 0b1001#4, 0b1010#4, 0b1111#4].map assemblerRow =
      [some .push, some .push, some .complete, none, none] := by decide

/-- The frames of 0x68 and 0x00 (95_test_vectors.md 2.3), bit 9 to bit 0 written `t p d7..d0`. -/
theorem test_decode_completion_words :
    [0b1101101000#10, 0b1001101000#10, 0b0101101000#10, 0b0001101000#10, 0b1000000000#10, 0b1100000000#10].map
        (fun w => (completionRow w).instr w) =
      [.baOk 1#1 0x68#8, .baFailParity 0#1 0x68#8, .baFailStop 1#1 0x68#8, .baFailStop 0#1 0x68#8,
        .baOk 0#1 0x00#8, .baFailParity 1#1 0x00#8] := by decide

/-- 30_encoding.md R86 at the edges of each class, L = 4 (V-F9) and L = 255 (95_test_vectors.md 2.4). -/
theorem test_decode_framer_positions :
    [(1, 0), (2, 0), (3, 4), (4, 4), (5, 4), (8, 4), (9, 4), (10, 4), (11, 4), (259, 255), (260, 255), (261, 255)].map
        (fun q : Nat × Nat => framerRow q.1 q.2) =
      [some .p1, some .p2, some .p3, some .p4, some .body, some .body, some .csum, some .stop, none, some .body,
        some .csum, some .stop] := by decide

/-- 30_encoding.md R86, vectors V-I2, V-I8 and V-I9: only both address bytes zero select the date-time decode. -/
theorem test_decode_interpreter_classes :
    [zeroTelegram [], ⟨0#4, 0#8, 1#8, [], 0#8⟩, ⟨0#4, 1#8, 0#8, scenarioC, 0#8⟩].map interpreterRow =
      [.zeroAddr, .nonzeroAddr, .nonzeroAddr] := by decide

/-- 30_encoding.md R63, R86: the numbers of opcode-table words. -/
theorem test_decode_table_words :
    [decodeTableWord 8 0b010, decodeTableWord 8 0b1001, decodeTableWord 16 0b1000000000] =
      [some (.ingest 0#1), some (.baComplete 0#1), some (.baOk 0#1 0#8)] := by decide

/-- A word placed for the next step is the one it runs (30_encoding.md R63; 41_bitslicer.md R102). -/
theorem test_fetch_word_runs : step (State.reset.withFetchWord 8 0b010) = exec (.ingest 0#1) State.reset := rfl

/-- Ten data bits placed for the next step are what it completes: 0x00 with the stop bit 0 (95_test_vectors.md 2.3). -/
theorem test_fetch_word_completes :
    diag (step (State.reset.withFetchWord 16 0b0000000000)) = some ⟨1#2, 1#4, 0x01#8, 0x00#8, 1#9⟩ := by decide

/-! One step of each row, with the result the spec's vectors give. -/

/-- Program P7, steps 223 to 227: a candidate is held across NOPs. -/
theorem test_nop_holds_the_candidate :
    regs (exec (.nop 1#1) (slicer slConfirm 3#8 0#8 (session 10))) = some (slConfirm, 3#8, 0#8, 0#4, 0#10) := by decide

/-- 95_test_vectors.md 2.2, step 33 of the trace with N = 3: the byte 0x68 is delivered. -/
theorem test_ingest_delivers_the_byte :
    regs (exec (.ingest 1#1) (assembler 9#4 0b101101000#10 (slicer slSample 2#8 2#8 (session 3)))) =
        some (slSearch, 0#8, 0#8, 0#4, 0#10) ∧
    framer (exec (.ingest 1#1) (assembler 9#4 0b101101000#10 (slicer slSample 2#8 2#8 (session 3)))) =
        some (1#9, [0x68#8]) := by decide

/-- Vector V-F9 and program P4, step 1543: all the outputs of the step that completes a telegram. -/
theorem test_ingest_completes_the_telegram :
    outs (exec (.ingest 1#1) (buffer vf9 (tenth (1#1 ++ 0x16#8) (session 10)))) =
      some { byte := some 0x16#8, tg := some vf9Telegram, record := some (.generic vf9Telegram) } := by decide

/-- 95_test_vectors.md 2.1: RESET from the middle of a byte-frame. -/
theorem test_reset_drops_partial_progress :
    nextState (exec (.reset 1#1 1#1)
      { assembler 4#4 0b1000#10 (slicer slSample 4#8 2#8 (session 10)) with frPos := 7#9 }) =
      some (session 10) := by decide

/-- 95_test_vectors.md 2.2: SEARCH_IDLE and SEARCH_START. -/
theorem test_search_idle : regs (exec (.ingest 1#1) (session 10)) = some (slSearch, 0#8, 0#8, 0#4, 0#10) := by decide
theorem test_search_start : regs (exec (.ingest 0#1) (session 10)) = some (slConfirm, 1#8, 0#8, 0#4, 0#10) := by decide

/-- 95_test_vectors.md 2.2, N = 1: the start is confirmed in the same step. -/
theorem test_search_start_n1 : regs (exec .searchStart (session 1)) = some (slSample, 0#8, 0#8, 0#4, 0#10) := by decide

/-- 95_test_vectors.md 2.2: CONFIRM, 5, 2 with a 1. -/
theorem test_confirm_acc :
    regs (exec (.ingest 1#1) (slicer slConfirm 5#8 2#8 (session 10))) = some (slConfirm, 6#8, 3#8, 0#4, 0#10) := by
  decide

/-- 95_test_vectors.md 2.2: CONFIRM, 9, 4 with a 0 (ones 4), and N = 9 with ones 4 (D4). -/
theorem test_confirm_ok :
    regs (exec (.ingest 0#1) (slicer slConfirm 9#8 4#8 (session 10))) = some (slSample, 0#8, 0#8, 0#4, 0#10) := by
  decide
theorem test_confirm_ok_odd :
    regs (exec (.ingest 0#1) (slicer slConfirm 8#8 4#8 (session 9))) = some (slSample, 0#8, 0#8, 0#4, 0#10) := by
  decide

/-- 95_test_vectors.md 2.2 and program P5: ones 5 is a tie and fails; the framer is kept and nothing is reported. -/
theorem test_confirm_fail_keeps_the_telegram :
    regs (exec (.ingest 1#1) (buffer [0x68#8, 4#8, 4#8] (slicer slConfirm 9#8 4#8 (session 10)))) =
        some (slSearch, 0#8, 0#8, 0#4, 0#10) ∧
    framer (exec (.ingest 1#1) (buffer [0x68#8, 4#8, 4#8] (slicer slConfirm 9#8 4#8 (session 10)))) =
        some (3#9, [0x68#8, 4#8, 4#8]) ∧
    outs (exec (.ingest 1#1) (buffer [0x68#8, 4#8, 4#8] (slicer slConfirm 9#8 4#8 (session 10)))) = some {} := by decide

/-- 95_test_vectors.md 2.2: SAMPLE, 3, 3 with a 1. -/
theorem test_sample_acc :
    regs (exec (.ingest 1#1) (slicer slSample 3#8 3#8 (session 10))) = some (slSample, 4#8, 4#8, 0#4, 0#10) := by decide

/-- 95_test_vectors.md 2.2: SAMPLE, 9, 5 with a 1 (ones 6) and with a 0 (ones 5, a tie). -/
theorem test_sample_decide_one :
    regs (exec (.ingest 1#1) (slicer slSample 9#8 5#8 (session 10))) = some (slSample, 0#8, 0#8, 1#4, 1#10) := by decide
theorem test_sample_decide_tie :
    regs (exec (.ingest 0#1) (slicer slSample 9#8 5#8 (session 10))) = some (slSample, 0#8, 0#8, 1#4, 0#10) := by decide

/-- 93_implementation_defined.md I1. -/
theorem test_reserved_state_is_refused :
    exec (.slicerReserved11 0#1) (slicer 0b11#2 0#8 0#8 (session 10)) = .refused .slicerStateReserved := rfl

/-- 93_implementation_defined.md I1: any state that holds 11 is refused, the NOP and RESET words included. -/
theorem test_reserved_state_refuses_nop :
    step (present [0b000#3] (slicer 0b11#2 0#8 0#8 (session 10))) = .refused .slicerStateReserved := rfl
theorem test_reserved_state_refuses_reset :
    step (present [0b100#3] (slicer 0b11#2 0#8 0#8 (session 10))) = .refused .slicerStateReserved := rfl

/-- 42_byte_assembler.md R113, the example. -/
theorem test_ba_push :
    regs (exec (.baPush 1#1) (assembler 2#4 0b01#10 (session 10))) = some (slSearch, 0#8, 0#8, 3#4, 0b101#10) := by
  decide

/-- 95_test_vectors.md 2.3: BA_N = 9, BA_BITS = 0b101101000, push 1, gives the byte 0x68. -/
theorem test_ba_complete :
    framer (exec (.baComplete 1#1) (assembler 9#4 0b101101000#10 (session 10))) = some (1#9, [0x68#8]) := by decide

/-- 95_test_vectors.md 2.3: `BYTEX 68 1 0`, and `BYTEX 68 0 0`, where the stop bit is checked first. -/
theorem test_ba_fail_stop :
    diag (exec (.ingest 0#1) (slicer slSample 9#8 0#8 (tenth (1#1 ++ 0x68#8) (session 10)))) =
      some ⟨1#2, 1#4, 0x01#8, 0x00#8, 1#9⟩ := by decide
theorem test_ba_fail_stop_before_parity :
    diag (exec (.baComplete 0#1) (assembler 9#4 0b001101000#10 (session 10))) =
      some ⟨1#2, 1#4, 0x01#8, 0x00#8, 1#9⟩ := by decide

/-- 95_test_vectors.md 2.3 `BYTEX FF 1 1`, and program P4, step 439: the parity failure of the fourth byte. -/
theorem test_ba_fail_parity :
    diag (exec (.baComplete 1#1) (assembler 9#4 0b111111111#10 (session 10))) =
      some ⟨1#2, 2#4, 0x00#8, 0x01#8, 1#9⟩ := by decide
theorem test_ba_fail_parity_fourth_byte :
    nextState (exec (.baFailParity 0#1 0x68#8) (buffer [0x68#8, 5#8, 5#8] (session 10))) =
      some { session 10 with out := { diag := some ⟨1#2, 2#4, 0x01#8, 0x00#8, 4#9⟩ } } := by decide

/-- 95_test_vectors.md 2.3 `BYTEX 80 1 1`: the byte is on OUT_BYTE, then P1 fails. -/
theorem test_ba_ok_then_wrong_start :
    outs (exec (.baOk 1#1 0x80#8) (session 10)) =
      some { byte := some 0x80#8, diag := some ⟨2#2, 1#4, 0x68#8, 0x80#8, 1#9⟩ } := by decide

/-- Vector V-F1. -/
theorem test_fr_p1_wrong_start :
    nextState (exec (.frP1 0x16#8) (session 10)) =
      some { session 10 with out := { diag := some ⟨2#2, 1#4, 0x68#8, 0x16#8, 1#9⟩ } } := by decide

/-- 43_telegram_framer.md R123, the example. -/
theorem test_fr_p2 : framer (exec (.frP2 5#8) (buffer [0x68#8] (session 10))) = some (2#9, [0x68#8, 5#8]) := by decide

/-- Vectors V-F3 (the mismatch is checked first) and V-F5. -/
theorem test_fr_p3_mismatch_first :
    diag (exec (.frP3 1#8) (buffer [0x68#8, 2#8] (session 10))) = some ⟨2#2, 2#4, 2#8, 1#8, 3#9⟩ := by decide
theorem test_fr_p3_too_short :
    diag (exec (.frP3 2#8) (buffer [0x68#8, 2#8] (session 10))) = some ⟨2#2, 3#4, 3#8, 2#8, 3#9⟩ := by decide

/-- Vector V-F6. -/
theorem test_fr_p4_wrong_repeat :
    diag (exec (.frP4 0x67#8) (buffer [0x68#8, 5#8, 5#8] (session 10))) =
      some ⟨2#2, 4#4, 0x68#8, 0x67#8, 4#9⟩ := by decide

/-- Vector V-F9, its seventh byte. -/
theorem test_fr_body :
    framer (exec (.frBody 0x34#8) (buffer (vf9.take 6) (session 10))) = some (7#9, vf9.take 7) := by decide

/-- Vectors V-F7, and V-F10, whose sum 0x200 wraps to 0. -/
theorem test_fr_csum_wrong :
    diag (exec (.frCsum 0xBC#8) (buffer (vf9.take 8) (session 10))) = some ⟨2#2, 5#4, 0xBD#8, 0xBC#8, 9#9⟩ := by decide
theorem test_fr_csum_wraps :
    framer (exec (.frCsum 0x00#8) (buffer [0x68#8, 3#8, 3#8, 0x68#8, 0xF0#8, 0x80#8, 0x90#8] (session 10))) =
      some (8#9, [0x68#8, 3#8, 3#8, 0x68#8, 0xF0#8, 0x80#8, 0x90#8, 0x00#8]) := by decide

/-- Vectors V-F8, and V-F10 with its empty payload and sequence number 15. -/
theorem test_fr_stop_wrong :
    nextState (exec (.frStop 0x68#8) (buffer vf9 (session 10))) =
      some { session 10 with out := { diag := some ⟨2#2, 6#4, 0x16#8, 0x68#8, 10#9⟩ } } := by decide
theorem test_fr_stop_completes :
    log (exec (.frStop 0x16#8)
      (buffer [0x68#8, 3#8, 3#8, 0x68#8, 0xF0#8, 0x80#8, 0x90#8, 0x00#8] (session 10))) =
      some [.generic ⟨15#4, 0x80#8, 0x90#8, [], 0x00#8⟩] := by decide

/-- Vectors V-I6, all eight fields beyond their nominal ranges, and V-I3, with the policy that keeps the record. -/
theorem test_zero_addr_no_range_check :
    log (exec (.zeroAddr (zeroTelegram [0x00#8, 0xFF#8, 0x3C#8, 0xFF#8, 0xE0#8, 0x0D#8, 0xFF#8])) (session 10)) =
      some [.dateTime ⟨63#6, 60#8, 127#7, 1#1, 7#3, 0#5, 13#8, 2255#12⟩] := by decide
theorem test_zero_addr_too_short_is_kept :
    nextState (exec (.zeroAddr (zeroTelegram [0xAA#8, 0xBB#8])) keeping) =
      some { keeping with log := [.generic (zeroTelegram [0xAA#8, 0xBB#8])],
                          out := { record := some (.generic (zeroTelegram [0xAA#8, 0xBB#8])),
                                   diag := some ⟨3#2, 1#4, 7#8, 2#8, 0#9⟩ } } := by decide

/-- Vector V-I9: with one nonzero address a date-time payload is not decoded. -/
theorem test_nonzero_addr :
    log (exec (.nonzeroAddr ⟨0#4, 1#8, 0#8, scenarioC, 0#8⟩) (session 10)) =
      some [.generic ⟨0#4, 1#8, 0#8, scenarioC, 0#8⟩] := by decide

/-- Scenario C (95_test_vectors.md 1.7) and vector V-I4. -/
theorem test_decode_date_time :
    decodeDateTime scenarioC = .ok ⟨30#6, 44#8, 21#7, 0#1, 3#3, 15#5, 7#8, 2024#12⟩ := rfl
theorem test_decode_leading_nonzero :
    decodeDateTime [0x01#8, 0x78#8, 0x2C#8, 0x15#8, 0x6F#8, 0x07#8, 0x18#8] =
      .error ⟨.leadingNonzero, 0#8, 1#8⟩ := rfl

/-- The checksum of scenario A (95_test_vectors.md 1.5). -/
theorem test_checksum_scenario_a : sumMod256 [0x10#8, 0x00#8, 0x00#8, 0xAA#8, 0xBB#8] = 0x75#8 := by decide

/-- The parity bits of 95_test_vectors.md 2.3. -/
theorem test_parity_bits :
    [0x00#8, 0x01#8, 0x16#8, 0x68#8, 0x7F#8, 0xBD#8, 0xFF#8].map parityBit = [0#1, 1#1, 1#1, 1#1, 1#1, 0#1, 0#1] := by
  decide

/-- 95_test_vectors.md 2.2: the majority table. -/
theorem test_majority :
    [majority 4 10, majority 5 10, majority 6 10, majority 4 9, majority 5 9, majority 1 2, majority 127 255,
      majority 128 255] = [0#1, 0#1, 1#1, 0#1, 1#1, 0#1, 0#1, 1#1] := by decide

/-- The bytes of telegram G2 (95_test_vectors.md, program P4). -/
theorem test_telegram_bytes : telegramBytes 0x21#8 0x12#8 0x34#8 [0x56#8] = vf9 ++ [0x16#8] := by decide

/-- The frame of 0x68 with N = 1 (95_test_vectors.md, program P6). -/
theorem test_byte_frame_words :
    byteFrame 1 0x68#8 = [0#1, 0#1, 0#1, 0#1, 1#1, 0#1, 1#1, 1#1, 0#1, 1#1, 1#1].map opSample := by decide

/-! For each obligation with hypotheses, values that meet them, clause by clause at the edge of its range. -/

theorem witness_EveryOperationWordDecodes :
    (0b001#3 &&& 0b110#3 = 0b000#3) ∧ (0b011#3 &&& 0b110#3 = 0b010#3) ∧ (0b111#3 &&& 0b100#3 = 0b100#3) := by decide

theorem witness_DecodeOfEncodeIsTheInstruction :
    (Instr.baOk 1#1 0x68#8).wellFormed = true ∧ (Instr.baFailParity 0#1 0x68#8).wellFormed = true ∧
    (Instr.zeroAddr (zeroTelegram scenarioC)).wellFormed = true ∧ (Instr.nonzeroAddr vf9Telegram).wellFormed = true := by
  decide

theorem witness_SelectorsChooseTheRowsOfTheTable :
    (BitVec.toNat 8#4 ≤ 8 ∧ BitVec.toNat 9#4 = 9) ∧ (5 ≤ 5 ∧ 5 ≤ 4 + 3) ∧ (259 ≤ 4 + 255) ∧ (260 = 5 + 255) := by decide

theorem witness_SlicerSelectorFollowsTheTable :
    ((session 10).slState = 0b00#2) ∧
    ((slicer slConfirm 8#8 4#8 (session 10)).slState = 0b01#2 ∧ (8#8 : BitVec 8).toNat + 1 ≠ 10) ∧
    ((slicer slConfirm 9#8 4#8 (session 10)).slState = 0b01#2 ∧ (9#8 : BitVec 8).toNat + 1 = 10 ∧
      2 * ((4#8 : BitVec 8).toNat + (0#1 : BitVec 1).toNat) < 10 ∧
      10 ≤ 2 * ((4#8 : BitVec 8).toNat + (1#1 : BitVec 1).toNat)) ∧
    ((slicer slSample 8#8 0#8 (session 10)).slState = 0b10#2) ∧
    ((slicer 0b11#2 0#8 0#8 (session 10)).slState = 0b11#2) := by decide

theorem witness_IngestIsTheChainOfSelectedRows :
    assemblerRow (assembler 8#4 0#10 (session 10)).baN = some .push ∧
    assemblerRow (assembler 9#4 0#10 (session 10)).baN = some .complete ∧
    framerRow ((buffer vf9 (session 10)).frPos.toNat + 1) (lengthByte (buffer vf9 (session 10))) = some .stop := by decide

theorem witness_NopHoldsEveryRegister : ∃ t, exec (.nop 0#1) (session 10) = .next t := ⟨_, rfl⟩

theorem witness_ResetGivesTheResetState : fullReset (session 10) = session 10 := by decide

theorem witness_StepRunsTheDecodedOperation :
    (session 1).slState ≠ 0b11#2 ∧ (session 1).cfg.Legal ∧ (session 255).cfg.Legal ∧
    (present [0b111#3] (session 1)).inputs = { op := 0b111#3 } :: [] ∧
    { session 1 with inputs := [{ op := 0b010#3, cfg := some (session 1).cfg }] }.inputs =
      { op := 0b010#3, cfg := some (session 1).cfg } :: [] ∧
    (session 1).inputs = [] := by decide

/-- The host asks for N = n with the word w. -/
def asking (w : BitVec 3) (n : Nat) : State :=
  { session 10 with inputs := [{ op := w, cfg := some { n := n, dtFailKeepsGeneric := true } }] }

theorem witness_ConfigurationChangesOnlyWithReset :
    ((asking 0b100#3 255).slState ≠ 0b11#2 ∧ (asking 0b100#3 255).cfg.Legal ∧ (⟨255, true⟩ : Cfg) ≠ (asking 0b100#3 255).cfg ∧
      0b100#3 &&& 0b100#3 = 0b100#3 ∧ (⟨255, true⟩ : Cfg).Legal) ∧
    (¬ (⟨256, true⟩ : Cfg).Legal ∧ ¬ (⟨0, true⟩ : Cfg).Legal) ∧
    (0b011#3 &&& 0b100#3 = 0b000#3) ∧ (session 0).slState ≠ 0b11#2 ∧ ¬ (session 0).cfg.Legal ∧ ¬ (session 256).cfg.Legal := by decide

theorem witness_ConfigurationChangesOnlyWithReset_change :
    ∃ t, step (asking 0b100#3 255) = .next t ∧ t.cfg ≠ (asking 0b100#3 255).cfg := ⟨_, rfl, by decide⟩

theorem witness_RunsStartFromTheResetState :
    (1 ≤ 1 ∧ 255 ≤ 255) ∧ (session 10).cfg.Legal ∧ fullReset (session 10) = session 10 ∧
    fullReset (buffer [0x68#8] (session 10)) ≠ buffer [0x68#8] (session 10) ∧ ¬ (session 256).cfg.Legal := by decide

theorem witness_SampleInSearch :
    (session 10).slState = slSearch ∧ (session 10).cfg.n ≠ 1 ∧ (session 1).slState = slSearch ∧ (session 1).cfg.n = 1 := by
  decide

theorem witness_SampleInConfirm :
    (slicer slConfirm 8#8 4#8 (session 10)).slState = slConfirm ∧
    ((slicer slConfirm 8#8 4#8 (session 10)).slCnt.toNat + 1 ≠ 10) ∧
    ((slicer slConfirm 9#8 4#8 (session 10)).slCnt.toNat + 1 = 10 ∧
      2 * ((slicer slConfirm 9#8 4#8 (session 10)).slOnes.toNat + (0#1 : BitVec 1).toNat) < 10 ∧
      10 ≤ 2 * ((slicer slConfirm 9#8 4#8 (session 10)).slOnes.toNat + (1#1 : BitVec 1).toNat)) := by decide

theorem witness_SampleInSample :
    (slicer slSample 8#8 4#8 (session 10)).slState = slSample ∧
    ((slicer slSample 8#8 4#8 (session 10)).slCnt.toNat + 1 ≠ 10) ∧
    ((slicer slSample 9#8 5#8 (session 10)).slCnt.toNat + 1 = 10 ∧
      ((1#1 : BitVec 1) = 1#1 ↔ 2 * ((slicer slSample 9#8 5#8 (session 10)).slOnes.toNat + (1#1 : BitVec 1).toNat) > 10) ∧
      ((0#1 : BitVec 1) = 1#1 ↔ 2 * ((slicer slSample 9#8 5#8 (session 10)).slOnes.toNat + (0#1 : BitVec 1).toNat) > 10)) ∧
    (assembler 8#4 0#10 (slicer slSample 9#8 5#8 (session 10))).baN.toNat ≤ 8 ∧
    (assembler 9#4 0#10 (slicer slSample 9#8 5#8 (session 10))).baN.toNat = 9 := by decide

theorem witness_SlicerTransitionsComplete : (session 2).cfg.n ≠ 1 ∧ (session 1).cfg.n = 1 := by decide

theorem witness_MajorityBitIsPushed :
    (session 10).baN.toNat ≤ 8 ∧ (assembler 8#4 0b11111111#10 (session 10)).baN.toNat ≤ 8 := by decide

theorem witness_ReservedSlicerStateIsRefused :
    (slicer 0b11#2 0#8 0#8 (session 10)).slState = 0b11#2 := by decide

theorem witness_DataBitIsAccumulated :
    ((assembler 8#4 0b10110100#10 (session 10)).baN.toNat ≤ 8 ∧
      (assembler 8#4 0b10110100#10 (session 10)).baBits.toNat < 2 ^ 8) ∧
    ((assembler 9#4 0b101101000#10 (session 10)).baN.toNat = 9 ∧
      (assembler 9#4 0b101101000#10 (session 10)).baBits.toNat < 2 ^ 9) := by decide

theorem witness_TenthBitChecksStopThenParity :
    (tenth (1#1 ++ 0x68#8) (session 10)).baN.toNat = 9 ∧
    (tenth (1#1 ++ 0x68#8) (session 10)).baBits.setWidth 9 = 1#1 ++ 0x68#8 := by decide

theorem witness_ByteIsAcceptedExactlyOnStopAndParity :
    (tenth (1#1 ++ 0x68#8) (session 10)).baN.toNat = 9 ∧
    (tenth (1#1 ++ 0x68#8) (session 10)).baBits.setWidth 9 = 1#1 ++ 0x68#8 ∧
    (tenth (1#1 ++ 0x68#8) (session 10)).out = ⟨none, none, none, none⟩ ∧
    (tenth (1#1 ++ 0x68#8) (session 10)).frBuf.length < 261 ∧
    framerRow (0 + 1) 0 ≠ none ∧ (popcount 0x68#8 + (1#1 : BitVec 1).toNat) % 2 = 0 ∧
    (popcount 0x68#8 + (0#1 : BitVec 1).toNat) % 2 ≠ 0 := by decide

theorem witness_WrongParityResets :
    (tenth (0#1 ++ 0x68#8) (session 10)).baN.toNat = 9 ∧
    (tenth (0#1 ++ 0x68#8) (session 10)).baBits.setWidth 9 = 0#1 ++ 0x68#8 ∧
    (popcount 0x68#8 + (0#1 : BitVec 1).toNat) % 2 = 1 := by decide

theorem witness_WrongStopBitResets : (tenth (1#1 ++ 0x68#8) (session 10)).baN.toNat = 9 := by decide

theorem witness_VerifiedByteIsDelivered :
    ((buffer vf9 (session 10)).frBuf.length < 261 ∧
      framerRow ((buffer vf9 (session 10)).frPos.toNat + 1) (lengthByte (buffer vf9 (session 10))) ≠ none) ∧
    framerRow ((buffer (vf9 ++ [0x16#8]) (session 10)).frPos.toNat + 1)
      (lengthByte (buffer (vf9 ++ [0x16#8]) (session 10))) = none := by decide

theorem witness_StartCharactersAreChecked :
    (session 10).frBuf.length < 261 ∧ (buffer (zeros 260) (session 10)).frBuf.length < 261 ∧
    (0x16#8 : Byte) ≠ 0x68#8 := ⟨by decide, by simp [buffer, zeros_length], by decide⟩

theorem witness_LengthAndCountedBytesAccumulate :
    (buffer [0x68#8] (session 10)).frBuf.length < 261 ∧ (buffer [0x68#8] (session 10)).frBuf.length = 1 := by decide

theorem witness_RedundantLengthIsChecked :
    (buffer [0x68#8, 2#8] (session 10)).frBuf = [0x68#8, 2#8] ∧ (2#8 : Byte) ≠ 1#8 ∧ (2#8 : Byte).toNat < 3 ∧
    (buffer [0x68#8, 3#8] (session 10)).frBuf = [0x68#8, 3#8] ∧ 3 ≤ (3#8 : Byte).toNat := by decide

theorem witness_ChecksumIsTheSumOfTheCountedBytes :
    (buffer (vf9.take 8) (session 10)).frBuf = [0x68#8, 4#8, 4#8, 0x68#8] ++ [0x21#8, 0x12#8, 0x34#8, 0x56#8] ∧
    [0x21#8, 0x12#8, 0x34#8, 0x56#8].length = (4#8 : Byte).toNat ∧
    (0xBD#8 : Byte).toNat = ([0x21#8, 0x12#8, 0x34#8, 0x56#8].map BitVec.toNat).sum % 256 ∧
    (0xBC#8 : Byte).toNat ≠ ([0x21#8, 0x12#8, 0x34#8, 0x56#8].map BitVec.toNat).sum % 256 := by decide

theorem witness_StopCharacterCompletesTheTelegram :
    (buffer vf9 (session 10)).frBuf =
      [0x68#8, 4#8, 4#8, 0x68#8, 0x21#8, 0x12#8, 0x34#8] ++ [0x56#8] ++ [0xBD#8] ∧
    [0x56#8].length + 3 = (4#8 : Byte).toNat ∧
    vf9Telegram = ⟨(0x21#8 : Byte).extractLsb' 4 4, 0x12#8, 0x34#8, [0x56#8], 0xBD#8⟩ ∧ (0x68#8 : Byte) ≠ 0x16#8 := by
  decide

theorem witness_FullBufferTakesNoByte : (buffer (zeros 261) (session 10)).frBuf.length = 261 := by
  simp [buffer, zeros_length]

theorem witness_DateTimeIsDecoded :
    (zeroTelegram (scenarioC ++ [0x99#8])).payload =
      0#8 :: 0x78#8 :: 0x2C#8 :: 0x15#8 :: 0x6F#8 :: 0x07#8 :: 0x18#8 :: [0x99#8] := by decide

theorem witness_FailedDateTimeDecodeFollowsThePolicy :
    ((zeroTelegram [0#8, 0#8, 0#8, 0#8, 0#8, 0#8]).payload.length < 7) ∧
    (session 10).cfg.dtFailKeepsGeneric = false ∧ keeping.cfg.dtFailKeepsGeneric = true ∧
    (7 ≤ (zeroTelegram [1#8, 0#8, 0#8, 0#8, 0#8, 0#8, 0#8]).payload.length ∧
      (zeroTelegram [1#8, 0#8, 0#8, 0#8, 0#8, 0#8, 0#8]).payload.head? = some 1#8 ∧ (1#8 : Byte) ≠ 0#8) := by decide

theorem witness_RaiseFollowsTheKind :
    causeKind .wrongStopBit = .framing ∧ causeKind .wrongChecksum = .frameGrammar ∧
    causeKind .payloadTooShort = .payloadFormat ∧ causeKind .startNotConfirmed = .bitSync := by decide

/-- A state of a run whose next step completes the telegram of V-F9 (program P4). -/
def completing : State := presentFirst 0b011#3 (buffer vf9 (tenth (1#1 ++ 0x16#8) (session 10)))

/-- A state of a run whose next step fails with a wrong stop bit. -/
def failing : State :=
  presentFirst 0b010#3 (slicer slSample 9#8 0#8 (tenth (1#1 ++ 0x16#8) (buffer vf9 (session 10))))

/-- A state of a run whose next step completes a zero-address telegram with too short a payload (vector V-F11). -/
def tooShort : State :=
  presentFirst 0b011#3 (tenth (1#1 ++ 0x16#8)
    (buffer [0x68#8, 3#8, 3#8, 0x68#8, 0#8, 0#8, 0#8, 0#8] (session 10)))

theorem witness_LogGrowsByTheInterpretersRecord :
    (∃ t, step completing = .next t) ∧ log (step completing) = some [.generic vf9Telegram] :=
  ⟨next_of_isSome (by decide), by decide⟩

theorem witness_OutputsOfAStepAreRelated :
    (∃ t, step completing = .next t) ∧ (outs (step completing)).bind (·.tg) = some vf9Telegram ∧
    diag (step tooShort) = some ⟨3#2, 1#4, 7#8, 0#8, 0#9⟩ ∧ (nextInput (session 10)).op &&& 0b110#3 ≠ 0b010#3 :=
  ⟨next_of_isSome (by decide), by decide, by decide, by decide⟩

theorem witness_FailuresResetEveryRegister :
    diag (step failing) = some ⟨1#2, 1#4, 1#8, 0#8, 10#9⟩ ∧ diag (step tooShort) = some ⟨3#2, 1#4, 7#8, 0#8, 0#9⟩ := by
  decide

theorem witness_BufferIsAppendedOrCleared :
    (∃ t, step completing = .next t) ∧ (∃ t, step failing = .next t) ∧ (∃ t, step (session 10) = .next t) :=
  ⟨next_of_isSome (by decide), next_of_isSome (by decide), next_of_isSome (by decide)⟩

theorem witness_DiagnosticReportsThePosition :
    failing.frPos.toNat = failing.frBuf.length ∧ diag (step failing) = some ⟨1#2, 1#4, 1#8, 0#8, 10#9⟩ ∧
    tooShort.frPos.toNat = tooShort.frBuf.length ∧ diag (step tooShort) = some ⟨3#2, 1#4, 7#8, 0#8, 0#9⟩ := by decide

theorem witness_SampleAlwaysCompletes : Inv (session 1) ∧ Inv completing ∧ Inv failing :=
  ⟨by decide, by decide, by decide⟩

theorem witness_ByteFrameAlwaysEnds : Inv completing ∧ completing.baN.toNat = 9 := by decide

theorem witness_NewSessionMeetsTheInvariant : (session 1).cfg.Legal ∧ (session 255).cfg.Legal := by decide

theorem witness_StepKeepsTheInvariant : Inv completing ∧ ∃ t, step completing = .next t :=
  ⟨by decide, next_of_isSome (by decide)⟩

theorem witness_ReachableStatesMeetTheInvariants :
    (session 10).cfg.Legal ∧ ∃ t, runSteps 1 (present [0b010#3] (session 10)) = .next t :=
  ⟨by decide, next_of_isSome (by decide)⟩

theorem witness_NoErrorStopsTheCore : Inv failing ∧ ∀ i ∈ failing.inputs, i.cfg = none := by decide

theorem witness_ByteFrameIsReadInElevenNSamples :
    (session 255).cfg.Legal ∧ (session 255).slState = slSearch ∧ (session 255).slCnt = 0#8 ∧
    (session 255).slOnes = 0#8 ∧ (session 255).baN = 0#4 ∧ (session 255).baBits = 0#10 := by decide

theorem witness_TelegramRoundTrip :
    (zeros 252).length ≤ 252 ∧ (session 10).frPos = 0#9 ∧ (session 10).frBuf = [] ∧
    vf9Telegram = ⟨(0x21#8 : Byte).extractLsb' 4 4, 0x12#8, 0x34#8, [0x56#8],
      BitVec.ofNat 8 (([0x21#8, 0x12#8, 0x34#8] ++ [0x56#8]).map BitVec.toNat).sum⟩ :=
  ⟨by simp [zeros_length], by decide, by decide, by decide⟩

theorem witness_TelegramOnTheWireIsLogged :
    (session 255).cfg.Legal ∧ (zeros 252).length ≤ 252 ∧ fullReset (session 255) = session 255 :=
  ⟨by decide, by simp [zeros_length], by decide⟩

end Sys2Proof.Tests
end

section
/-! PROOFS of 10_state.md: the reset values (R37), the invariants of the registers (R34, R35) and how the outputs of
one step are related (R43). Each layer is shown once to keep the invariant and to relate its outputs. -/

namespace Sys2Proof.Machine

variable {s t : State} {v : Byte}

/-! The parts of the invariant: what they read, and where they hold at once. -/

/-- R35 reads FR_POS and FR_BUF only. -/
theorem framerInv_congr (hp : t.frPos = s.frPos) (hb : t.frBuf = s.frBuf) (h : FramerInv s) : FramerInv t := by
  have hm : ∀ i, memRead i t = memRead i s := memRead_congr s hb
  simpa only [FramerInv, lengthByte, checksum, memRange, hm, hp, hb] using h

theorem framerInv_of_empty (hp : s.frPos = 0#9) (hb : s.frBuf = []) : FramerInv s := by
  simp [FramerInv, hp, hb]

theorem slicerInv_of_search (hst : s.slState = slSearch) (hc : s.slCnt = 0#8) (ho : s.slOnes = 0#8)
    (hn : s.baN = 0#4) (hb : s.baBits = 0#10) : SlicerInv s := by
  simp [SlicerInv, hst, hc, ho, hn, hb, slSearch, slConfirm, slSample]

theorem slicerInv_of_confirm (hst : s.slState = slConfirm) (h1 : 1 ≤ s.slCnt.toNat)
    (hc : s.slCnt.toNat + 1 ≤ s.cfg.n) (ho : s.slOnes.toNat + 1 ≤ s.slCnt.toNat) (hn : s.baN = 0#4)
    (hb : s.baBits = 0#10) : SlicerInv s := by
  refine ⟨fun h => ?_, fun _ => ⟨h1, hc, ho, hn, hb⟩, fun h => ?_, ?_⟩
  · rw [hst] at h; exact absurd h (by decide)
  · rw [hst] at h; exact absurd h (by decide)
  · rw [hst]; decide

theorem slicerInv_of_sample (hst : s.slState = slSample) (hc : s.slCnt.toNat + 1 ≤ s.cfg.n)
    (ho : s.slOnes.toNat ≤ s.slCnt.toNat) (hn : s.baN.toNat ≤ 9) (hb : s.baBits.toNat < 2 ^ s.baN.toNat) :
    SlicerInv s := by
  refine ⟨fun h => ?_, fun h => ?_, fun _ => ⟨hc, ho, hn, hb⟩, ?_⟩
  · rw [hst] at h; exact absurd h (by decide)
  · rw [hst] at h; exact absurd h (by decide)
  · rw [hst]; decide

/-- Where only the slicer, the assembler and the outputs changed, R34 is all that is left to show. -/
theorem inv_of_slicerInv (h : Inv s) (hc : t.cfg = s.cfg) (hp : t.frPos = s.frPos) (hb : t.frBuf = s.frBuf)
    (hl : t.log = s.log) (hs : SlicerInv t) : Inv t := by
  obtain ⟨hcfg, -, hfr, hlog⟩ := h
  refine ⟨hc ▸ hcfg, hs, framerInv_congr hp hb hfr, ?_⟩
  rw [LogInv, hl]
  exact hlog

/-- The reset registers meet the invariant, whatever the state was (40_pipeline.md R96). -/
theorem inv_resetWith (o : Outputs) (hcfg : s.cfg.Legal) (hlog : LogInv s) : Inv (resetWith o s) :=
  ⟨hcfg, slicerInv_of_search rfl rfl rfl rfl rfl, framerInv_of_empty rfl rfl, hlog⟩

theorem inv_create {c : Cfg} (hc : c.Legal) (ops : List HostInput) : Inv { State.create c with inputs := ops } :=
  inv_resetWith (s := { State.create c with inputs := ops }) {} hc (by simp [LogInv])

/-! The interpreter: the records it logs have their formats. -/

theorem recordOf_fits {c : Cfg} {g : Generic} {r : Record} (hg : recordFits (.generic g) = true)
    (h : recordOf c g = some r) : recordFits r = true := by
  unfold recordOf at h
  split at h
  · cases hd : decodeDateTime g.payload with
    | ok d =>
      rw [hd] at h
      cases h; exact decodeDateTime_ok_fits hd
    | error f =>
      simp only [hd, Option.ite_none_right_eq_some] at h
      obtain ⟨-, h⟩ := h
      cases h; exact hg
  · cases h; exact hg

theorem interpret_keeps_inv {g : Generic} (hs : Inv s) (hg : recordFits (.generic g) = true)
    (h : interpret g s = .next t) : Inv t := by
  obtain ⟨o, ho, -⟩ := interpret_next g s
  rw [ho] at h
  cases h
  obtain ⟨hcfg, hsl, hfr, hlog⟩ := hs
  refine ⟨hcfg, hsl, hfr, fun r hr => ?_⟩
  rcases List.mem_append.mp hr with hr | hr
  · exact hlog r hr
  · exact recordOf_fits hg (Option.mem_toList.mp hr)

/-! The framer: a byte that stays in FR_BUF has passed the check of its position. -/

/-- The positions `p` a framer row is for, with length byte `l` (30_encoding.md R86). -/
def RowCovers (p l : Nat) : FramerRow → Prop
  | .p1 => p = 1
  | .p2 => p = 2
  | .p3 => p = 3
  | .p4 => p = 4
  | .body => 5 ≤ p ∧ p ≤ 4 + l
  | .csum => p = 5 + l
  | .stop => p = 6 + l

theorem rowCovers_of_framerRow {p l : Nat} {r : FramerRow} (h : framerRow p l = some r) : RowCovers p l r := by
  unfold framerRow at h
  split_ifs at h <;> cases h <;> assumption

/-- The check of each row, in the state `u` with the byte appended; the byte of FR_STOP never stays
(43_telegram_framer.md R122 to R131). -/
def PassesCheck (v : Byte) (u : State) : FramerRow → Prop
  | .p1 | .p4 => v = Config.startChar
  | .p2 | .body => True
  | .p3 => memRead 1 u = memRead 2 u ∧ 3 ≤ lengthByte u
  | .csum => v = checksum u
  | .stop => False

theorem raise_frameGrammar_ne_appended {c : Cause} (h : causeKind c = .frameGrammar) (e a : Byte) (p : BitVec 9) :
    (.next (raise c e a p (appended v s)) : Result) ≠ .next (appended v s) := by
  rw [raise_frameGrammar _ h]
  intro he
  simpa [failedWith] using congrArg State.frBuf (Host.Outcome.next.inj he)

theorem interpret_stopped_ne_appended (g : Generic) : interpret g (stopped v s) ≠ .next (appended v s) := by
  obtain ⟨o, ho, -⟩ := interpret_next g (stopped v s)
  rw [ho]
  intro he
  simpa [stopped] using congrArg State.frBuf (Host.Outcome.next.inj he)

theorem acceptByte_appended_passes (h : acceptByte v s = .next (appended v s)) :
    ∃ r, framerRow (s.frPos.toNat + 1) (lengthByte s) = some r ∧ PassesCheck v (appended v s) r := by
  unfold acceptByte at h
  cases hr : framerRow (s.frPos.toNat + 1) (lengthByte s) with
  | none => rw [hr] at h; cases h
  | some r =>
    rw [hr] at h
    refine ⟨r, rfl, ?_⟩
    cases r with
    | p1 | p4 | csum =>
      obtain ⟨-, h⟩ := accepted_next s h
      split at h
      · assumption
      · exact absurd h (raise_frameGrammar_ne_appended rfl _ _ _)
    | p2 | body => trivial
    | p3 =>
      obtain ⟨-, h⟩ := accepted_next s h
      split at h
      · exact absurd h (raise_frameGrammar_ne_appended rfl _ _ _)
      · next heq =>
        split at h
        · exact absurd h (raise_frameGrammar_ne_appended rfl _ _ _)
        · next hmin => exact ⟨not_not.mp heq, Nat.not_lt.mp hmin⟩
    | stop =>
      obtain ⟨-, h⟩ := accepted_next s h
      split at h
      · exact interpret_stopped_ne_appended _ h
      · exact absurd h (raise_frameGrammar_ne_appended rfl _ _ _)

/-- R35 after an append, from what the checks tell about the byte, by the number of bytes before it. -/
theorem framerInv_appended (h : FramerInv s) (hroom : s.frBuf.length ≤ 259)
    (h0 : s.frBuf.length = 0 → v = Config.startChar)
    (h2 : s.frBuf.length = 2 → memRead 1 (appended v s) = memRead 2 (appended v s) ∧ 3 ≤ lengthByte (appended v s))
    (h3 : s.frBuf.length = 3 → v = Config.startChar)
    (hbody : 4 ≤ s.frBuf.length → s.frBuf.length ≤ 4 + lengthByte s)
    (hsum : 4 ≤ s.frBuf.length → s.frBuf.length = 4 + lengthByte s → v = checksum (appended v s)) :
    FramerInv (appended v s) := by
  obtain ⟨hpos, -, hstart, hlen, hrest⟩ := h
  have hlast : ∀ i, s.frBuf.length = i → memRead i (appended v s) = v := by
    rintro _ rfl; exact memRead_appended_last s
  have hL : 1 < s.frBuf.length → lengthByte (appended v s) = lengthByte s := lengthByte_appended s
  simp only [FramerInv, appended_frPos, appended_frBuf, List.length_append, List.length_singleton]
  refine ⟨?_, by omega, fun _ => ?_, fun hn => ?_, fun hn => ?_⟩
  · rw [BitVec.toNat_add, hpos]
    exact Nat.mod_eq_of_lt (by change s.frBuf.length + 1 < 512; omega)
  · rcases Nat.eq_zero_or_pos s.frBuf.length with he | he
    · rw [hlast 0 he, h0 he]
    · rw [memRead_appended_of_lt s he, hstart he]
  · by_cases he : s.frBuf.length = 2
    · exact h2 he
    · rw [memRead_appended_of_lt s (by omega), memRead_appended_of_lt s (by omega), hL (by omega)]
      exact hlen (by omega)
  · rw [hL (by omega)]
    by_cases he : s.frBuf.length = 3
    · rw [hlast 3 he]
      exact ⟨h3 he, by omega, fun _ => by omega⟩
    · have hn4 : 4 ≤ s.frBuf.length := by omega
      obtain ⟨hrepeat, -, -⟩ := hrest hn4
      have hmax := hbody hn4
      rw [memRead_appended_of_lt s (by omega)]
      refine ⟨hrepeat, by omega, fun hc => ?_⟩
      have hc' : s.frBuf.length = 4 + lengthByte s := by omega
      rw [hlast _ hc']
      exact hsum hn4 hc'

theorem acceptByte_appended_keeps_framerInv (hs : FramerInv s) (h : acceptByte v s = .next (appended v s)) :
    FramerInv (appended v s) := by
  obtain ⟨r, hr, hcheck⟩ := acceptByte_appended_passes h
  have hrow := rowCovers_of_framerRow hr
  have hL : lengthByte s < 256 := (memRead 1 s).isLt
  obtain ⟨hpos, -⟩ := id hs
  rw [hpos] at hrow
  cases r <;> simp only [RowCovers, PassesCheck] at hrow hcheck
  case p1 => exact framerInv_appended hs (by omega) (fun _ => hcheck) (by omega) (by omega) (by omega) (by omega)
  case p3 => exact framerInv_appended hs (by omega) (by omega) (fun _ => hcheck) (by omega) (by omega) (by omega)
  case p4 => exact framerInv_appended hs (by omega) (by omega) (by omega) (fun _ => hcheck) (by omega) (by omega)
  case p2 | body => exact framerInv_appended hs (by omega) (by omega) (by omega) (by omega) (by omega) (by omega)
  case csum => exact framerInv_appended hs (by omega) (by omega) (by omega) (by omega) (by omega) (fun _ _ => hcheck)

theorem inv_stopped (hs : Inv s) : Inv (stopped v s) := by
  obtain ⟨hcfg, hsl, -, hlog⟩ := hs
  exact ⟨hcfg, hsl, framerInv_of_empty rfl rfl, hlog⟩

theorem inv_failedWith (d : Diag) (hs : Inv s) : Inv (failedWith d s) := by
  obtain ⟨hcfg, -, -, hlog⟩ := hs
  exact inv_resetWith _ hcfg hlog

theorem acceptByte_keeps_inv (hs : Inv s) (h : acceptByte v s = .next t) : Inv t := by
  obtain ⟨-, rfl | ⟨d, rfl, -⟩ | ⟨-, -, h⟩⟩ := acceptByte_cases h
  · obtain ⟨hcfg, hsl, hfr, hlog⟩ := hs
    exact ⟨hcfg, hsl, acceptByte_appended_keeps_framerInv hfr h, hlog⟩
  · exact inv_failedWith d hs
  · exact interpret_keeps_inv (inv_stopped hs) (buildTelegram_fits _) h

/-! The assembler and the slicer. -/

theorem inv_pushBit {b : Bit} (hs : Inv s) (hst : s.slState = slSample) (hn : s.baN.toNat ≤ 8) :
    Inv (pushBit b s) := by
  obtain ⟨-, ⟨-, -, hsample, -⟩, -⟩ := id hs
  obtain ⟨hc, ho, -, hb⟩ := hsample hst
  have hn' : (s.baN + 1#4).toNat = s.baN.toNat + 1 := by bv_omega
  refine inv_of_slicerInv hs rfl rfl rfl rfl (slicerInv_of_sample hst hc ho ?_ ?_)
  · simp only [pushBit_baN, hn']
    omega
  · simp only [pushBit_baN, pushBit_baBits, hn', setBit_toNat (show s.baN.toNat < 10 by omega) hb, Nat.pow_succ]
    have hbit : b.toNat * 2 ^ s.baN.toNat ≤ 1 * 2 ^ s.baN.toNat := Nat.mul_le_mul_right _ (Nat.le_of_lt_succ b.isLt)
    omega

/-- A byte-frame ends with the slicer in SEARCH, where its counters are already 0 (42_byte_assembler.md R118). -/
theorem inv_framed (hs : Inv s) (hc : s.slCnt = 0#8) (ho : s.slOnes = 0#8) (b : Bit) :
    Inv (framed v (pushBit b s)) :=
  inv_of_slicerInv hs rfl rfl rfl rfl (slicerInv_of_search rfl hc ho rfl rfl)

theorem deliverBit_keeps_inv {b : Bit} (hs : Inv s) (hst : s.slState = slSample) (hc : s.slCnt = 0#8)
    (ho : s.slOnes = 0#8) (h : deliverBit b s = .next t) : Inv t := by
  obtain ⟨hn, rfl⟩ | ⟨-, ⟨d, rfl, -⟩ | h⟩ := deliverBit_cases h
  · exact inv_pushBit hs hst hn
  · exact inv_failedWith d hs
  · exact acceptByte_keeps_inv (inv_framed hs hc ho b) h

theorem inv_startSampling (hs : Inv s) : Inv (startSampling s) := by
  obtain ⟨⟨hmin, -⟩, -⟩ := id hs
  exact inv_of_slicerInv hs rfl rfl rfl rfl
    (slicerInv_of_sample rfl (by simpa using hmin) (by simp) (by simp) (by simp))

/-- Counting a sample wraps neither counter, for the symbol is not complete (41_bitslicer.md R103, R105). -/
theorem inv_countSample {x : Bit} (hs : Inv s) (hst : s.slState = slConfirm ∨ s.slState = slSample)
    (hn : s.slCnt.toNat + 1 ≠ s.cfg.n) : Inv (countSample x s) := by
  obtain ⟨⟨-, hmax⟩, ⟨-, hconfirm, hsample, -⟩, -⟩ := id hs
  have hx : x.toNat < 2 := x.isLt
  have hcnt : s.slCnt.toNat < 255 → (s.slCnt + 1#8).toNat = s.slCnt.toNat + 1 := by bv_omega
  have hones : s.slOnes.toNat < 255 → (s.slOnes + x.setWidth 8).toNat = s.slOnes.toNat + x.toNat := by bv_omega
  refine inv_of_slicerInv hs rfl rfl rfl rfl ?_
  rcases hst with hst | hst
  · obtain ⟨h1, hc, ho, hbn, hbb⟩ := hconfirm hst
    have := hcnt (by omega)
    have := hones (by omega)
    exact slicerInv_of_confirm hst (by simp; omega) (by simp; omega) (by simp; omega) hbn hbb
  · obtain ⟨hc, ho, hbn, hbb⟩ := hsample hst
    have := hcnt (by omega)
    have := hones (by omega)
    exact slicerInv_of_sample hst (by simp; omega) (by simp; omega) hbn hbb

theorem runSample_keeps_inv {x : Bit} (hs : Inv s) (h : runSample x s = .next t) : Inv t := by
  obtain ⟨⟨hmin, -⟩, ⟨hsearch, hconfirm, hsample, -⟩, -⟩ := id hs
  obtain ⟨hst, rfl | ⟨hn, rfl⟩ | ⟨-, rfl⟩⟩ | ⟨hst, ⟨hn, rfl⟩ | ⟨-, rfl | rfl⟩⟩ | ⟨hst, ⟨hn, rfl⟩ | ⟨-, h⟩⟩ :=
    runSample_cases h
  case inl.inl => exact hs
  case inl.inr.inl =>
    obtain ⟨-, -, hbn, hbb⟩ := hsearch hst
    exact inv_of_slicerInv hs rfl rfl rfl rfl
      (slicerInv_of_confirm rfl (by simp) (by simp; omega) (by simp) hbn hbb)
  case inl.inr.inr => exact inv_startSampling hs
  case inr.inl.inl => exact inv_countSample hs (.inl hst) hn
  case inr.inl.inr.inl => exact inv_startSampling hs
  case inr.inl.inr.inr =>
    obtain ⟨-, -, -, hbn, hbb⟩ := hconfirm hst
    exact inv_of_slicerInv hs rfl rfl rfl rfl (slicerInv_of_search rfl rfl rfl hbn hbb)
  case inr.inr.inl => exact inv_countSample hs (.inr hst) hn
  case inr.inr.inr =>
    obtain ⟨-, -, hbn, hbb⟩ := hsample hst
    have hs' : Inv (setSlicer s.slState 0#8 0#8 s) := inv_of_slicerInv hs rfl rfl rfl rfl
      (slicerInv_of_sample hst (by simpa using hmin) (by simp) hbn hbb)
    exact deliverBit_keeps_inv hs' hst rfl rfl h

/-! A step and a run. -/

theorem inv_clearOut_atStart (hs : Inv s) (hcfg : (atStart s).cfg = s.cfg) : Inv (clearOut (atStart s)) := by
  obtain ⟨-, hsl, -⟩ := id hs
  refine inv_of_slicerInv hs hcfg (by simp) (by simp) (by simp) ?_
  simpa [SlicerInv, hcfg] using hsl

theorem step_keeps_inv (hs : Inv s) (h : step s = .next t) : Inv t := by
  obtain ⟨-, -, ⟨x, -, hcfg, rfl⟩ | ⟨x, -, hcfg, h⟩ | ⟨w, x, -, hcfg, rfl⟩⟩ := step_cases h
  · exact inv_clearOut_atStart hs hcfg
  · exact runSample_keeps_inv (inv_clearOut_atStart hs hcfg) h
  · obtain ⟨-, -, -, hlog⟩ := hs
    exact inv_resetWith _ hcfg (by simpa [LogInv] using hlog)

theorem runSteps_keeps_inv {k : Nat} (hs : Inv s) (h : runSteps k s = .next t) : Inv t := by
  induction k generalizing s with
  | zero => cases h; exact hs
  | succ k ih =>
    cases hstep : step s with
    | next s' =>
      simp only [runSteps, hstep] at h
      exact ih (step_keeps_inv hs hstep) h
    | fault r => simp [runSteps, hstep] at h
    | refused r => simp [runSteps, hstep] at h

/-- Settles O47: a RESET resets the registers, NOP touches none, and each layer of an INGEST keeps the invariant. -/
theorem stepKeepsTheInvariant : Obligations.StepKeepsTheInvariant :=
  fun _ _ => step_keeps_inv

/-- Settles O48, by induction on the steps from the session's creation. -/
theorem reachableStatesMeetTheInvariants : Obligations.ReachableStatesMeetTheInvariants := by
  intro c ops k t hc h
  obtain ⟨-, hsl, hfr, -⟩ := runSteps_keeps_inv (inv_create hc ops) h
  exact ⟨hsl, hfr⟩

/-! The outputs of one step. -/

/-- How the outputs of one step are related (10_state.md R43). -/
def OutputsRelated (o : Outputs) : Prop :=
  (o.tg ≠ none → o.byte ≠ none) ∧ (o.record ≠ none → o.tg ≠ none) ∧
  ∀ d, o.diag = some d → o.tg ≠ none → d.kind = 3#2

/-- Without a telegram or a record, a byte and a diagnostic may stand in any combination. -/
theorem outputsRelated_of_noTelegram {o : Outputs} (ht : o.tg = none) (hr : o.record = none) : OutputsRelated o := by
  simp [OutputsRelated, ht, hr]

theorem acceptByte_outputsRelated (hb : s.out.byte ≠ none) (ht : s.out.tg = none) (hr : s.out.record = none)
    (hd : s.out.diag = none) (h : acceptByte v s = .next t) : OutputsRelated t.out := by
  obtain ⟨-, rfl | ⟨d, rfl, -⟩ | ⟨-, -, h⟩⟩ := acceptByte_cases h
  · exact outputsRelated_of_noTelegram ht hr
  · exact outputsRelated_of_noTelegram ht hr
  · obtain ⟨o, ho, hbyte, htg, -, hdiag⟩ := interpret_next (buildTelegram (appended v s)) (stopped v s)
    rw [ho] at h
    cases h
    change OutputsRelated o
    have htg' : o.tg ≠ none := by simp [htg, stopped]
    refine ⟨fun _ => hbyte ▸ hb, fun _ => htg', fun d hod _ => ?_⟩
    rcases hdiag with hdiag | ⟨d', hdiag, hkind, -⟩
    · simp [hod, stopped, hd] at hdiag
    · rw [hod] at hdiag
      cases hdiag; exact hkind

theorem deliverBit_outputsRelated {b : Bit} (hs : s.out = {}) (h : deliverBit b s = .next t) :
    OutputsRelated t.out := by
  obtain ⟨-, rfl⟩ | ⟨-, ⟨d, rfl, -⟩ | h⟩ := deliverBit_cases h
  · exact outputsRelated_of_noTelegram (by simp [hs]) (by simp [hs])
  · exact outputsRelated_of_noTelegram (by simp [failedWith, hs]) (by simp [failedWith, hs])
  · exact acceptByte_outputsRelated (by simp [framed]) (by simp [framed, hs]) (by simp [framed, hs])
      (by simp [framed, hs]) h

theorem runSample_outputsRelated {x : Bit} (hs : s.out = {}) (h : runSample x s = .next t) :
    OutputsRelated t.out := by
  have hquiet : ∀ u : State, u.out = s.out → OutputsRelated u.out := fun u hu =>
    outputsRelated_of_noTelegram (by simp [hu, hs]) (by simp [hu, hs])
  obtain ⟨-, rfl | ⟨-, rfl⟩ | ⟨-, rfl⟩⟩ | ⟨-, ⟨-, rfl⟩ | ⟨-, rfl | rfl⟩⟩ | ⟨-, ⟨-, rfl⟩ | ⟨-, h⟩⟩ :=
    runSample_cases h
  case inr.inr.inr => exact deliverBit_outputsRelated (s := setSlicer s.slState 0#8 0#8 s) hs h
  all_goals exact hquiet _ rfl

theorem op_of_decodeOp_ingest {w : BitVec 3} {x : Bit} (h : decodeOp w = .ingest x) :
    w &&& 0b110#3 = 0b010#3 := by
  revert w x; decide

/-- Settles O40: NOP and RESET leave every output none, and INGEST starts with none and goes through the layers. -/
theorem outputsOfAStepAreRelated : Obligations.OutputsOfAStepAreRelated := by
  intro s t h
  suffices hgoal : OutputsRelated t.out ∧ ((nextInput s).op &&& 0b110#3 ≠ 0b010#3 → t.out = {}) by
    obtain ⟨⟨hbyte, htg, hdiag⟩, hnone⟩ := hgoal
    exact ⟨hbyte, htg, hdiag, hnone⟩
  obtain ⟨-, -, ⟨x, -, -, rfl⟩ | ⟨x, hop, -, h⟩ | ⟨w, x, -, -, rfl⟩⟩ := step_cases h
  · exact ⟨outputsRelated_of_noTelegram rfl rfl, fun _ => rfl⟩
  · exact ⟨runSample_outputsRelated rfl h, fun hne => absurd (op_of_decodeOp_ingest hop) hne⟩
  · exact ⟨outputsRelated_of_noTelegram rfl rfl, fun _ => rfl⟩

/-- Settles O12: the definitions of `State.create`, `fullReset` and `State.reset` hold the table's values. -/
theorem resetValuesAreTheTable : Obligations.ResetValuesAreTheTable :=
  ⟨fun _ => ⟨rfl, rfl, rfl, rfl, rfl, rfl, rfl, rfl, rfl⟩, fun _ => rfl, rfl⟩

end Sys2Proof.Machine
end

section
/-! PROOFS of 20_memory.md: the telegram buffer is only appended to or cleared (R47, R49, R50), and a full buffer
takes no byte (R46). -/

namespace Sys2Proof.Machine

variable {s t : State} {v : Byte}

/-- What a sample may do to the telegram buffer: leave it alone and deliver no byte, append the byte on OUT_BYTE, or
clear it with a completed telegram or an error that resets fully (20_memory.md R47, R49). -/
def SampleMovesBuffer (s t : State) : Prop :=
  (t.frBuf = s.frBuf ∧ t.frPos = s.frPos ∧ t.out.byte = none) ∨
  (∃ v, t.out.byte = some v ∧ t.frBuf = s.frBuf ++ [v] ∧ t.frPos = s.frPos + 1#9 ∧ t.out.diag = none) ∨
  (t.frBuf = [] ∧ t.frPos = 0#9 ∧
    (t.out.tg ≠ none ∨ ∃ d, t.out.diag = some d ∧ (d.kind = 1#2 ∨ d.kind = 2#2)))

theorem failedWith_movesBuffer {d : Diag} (h : d.kind = 1#2 ∨ d.kind = 2#2) :
    SampleMovesBuffer s (failedWith d s) :=
  .inr (.inr ⟨rfl, rfl, .inr ⟨d, rfl, h⟩⟩)

/-- The interpreter leaves the buffer cleared and the telegram on OUT_TG (44_interpreter.md R145). -/
theorem interpret_stopped_movesBuffer {g : Generic} (h : interpret g (stopped v s) = .next t) :
    SampleMovesBuffer s t := by
  obtain ⟨o, ho, -, htg, -⟩ := interpret_next g (stopped v s)
  rw [ho] at h
  cases h
  exact .inr (.inr ⟨rfl, rfl, .inl (by simp [htg, stopped])⟩)

theorem acceptByte_movesBuffer (hb : s.out.byte = some v) (hd : s.out.diag = none)
    (h : acceptByte v s = .next t) : SampleMovesBuffer s t := by
  obtain ⟨-, rfl | ⟨d, rfl, hkind⟩ | ⟨-, -, h⟩⟩ := acceptByte_cases h
  · exact .inr (.inl ⟨v, hb, rfl, rfl, hd⟩)
  · exact failedWith_movesBuffer (.inr hkind)
  · exact interpret_stopped_movesBuffer h

theorem deliverBit_movesBuffer {b : Bit} (hs : s.out = {}) (h : deliverBit b s = .next t) :
    SampleMovesBuffer s t := by
  obtain ⟨-, rfl⟩ | ⟨-, ⟨d, rfl, hkind, -⟩ | h⟩ := deliverBit_cases h
  · exact .inl ⟨rfl, rfl, by simp [hs]⟩
  · exact failedWith_movesBuffer (.inl hkind)
  · exact acceptByte_movesBuffer (s := framed _ (pushBit b s)) rfl (by simp [framed, hs]) h

theorem runSample_movesBuffer {x : Bit} (hs : s.out = {}) (h : runSample x s = .next t) :
    SampleMovesBuffer s t := by
  have hkept : ∀ u : State, u.frBuf = s.frBuf → u.frPos = s.frPos → u.out = s.out → SampleMovesBuffer s u :=
    fun u hbuf hpos hout => .inl ⟨hbuf, hpos, by simp [hout, hs]⟩
  obtain ⟨-, rfl | ⟨-, rfl⟩ | ⟨-, rfl⟩⟩ | ⟨-, ⟨-, rfl⟩ | ⟨-, rfl | rfl⟩⟩ | ⟨-, ⟨-, rfl⟩ | ⟨-, h⟩⟩ :=
    runSample_cases h
  case inr.inr.inr => exact deliverBit_movesBuffer (s := setSlicer s.slState 0#8 0#8 s) hs h
  all_goals exact hkept _ rfl rfl rfl

theorem op_of_decodeOp_reset {w : BitVec 3} {y x : Bit} (h : decodeOp w = .reset y x) :
    w &&& 0b100#3 = 0b100#3 := by
  revert w y x; decide

/-- Settles O42: NOP leaves the buffer alone, RESET clears it, and INGEST does what its sample does. -/
theorem bufferIsAppendedOrCleared : Obligations.BufferIsAppendedOrCleared := by
  intro s t h
  obtain ⟨-, -, ⟨x, -, -, rfl⟩ | ⟨x, -, -, h⟩ | ⟨y, x, hop, -, rfl⟩⟩ := step_cases h
  · exact .inl ⟨by simp, by simp, rfl⟩
  · have hmove : SampleMovesBuffer (clearOut (atStart s)) t := runSample_movesBuffer rfl h
    simp only [SampleMovesBuffer, clearOut_frBuf, clearOut_frPos, atStart_frBuf, atStart_frPos] at hmove
    obtain hkept | happended | ⟨hbuf, hpos, hcause⟩ := hmove
    · exact .inl hkept
    · exact .inr (.inl happended)
    · exact .inr (.inr ⟨hbuf, hpos, .inr hcause⟩)
  · exact .inr (.inr ⟨rfl, rfl, .inl (op_of_decodeOp_reset hop)⟩)

/-- Settles O34: each framer row appends before it checks, and an append to a full buffer faults. -/
theorem fullBufferTakesNoByte : Obligations.FullBufferTakesNoByte := by
  intro s v hfull
  have hfault : ∀ check, accepted v s check = .fault .bufferFull := fun _ => accepted_full s hfull.ge
  exact ⟨hfault _, hfault _, hfault _, hfault _, hfault _, hfault _, hfault _⟩

end Sys2Proof.Machine
end

section
/-! PROOFS of 30_encoding.md: the decoder and the encoder (R61 to R67, R85, R86), the selectors as `↔` (R85, R86),
the refusal of SL_STATE = 11 (R89), and the codes and positions of diagnostics (R81 to R84). -/

namespace Sys2Proof.Machine

variable {s t : State} {v : Byte}

/-! Operation words. -/

/-- Settles O1: the three patterns of op[2:1] cover the eight words. -/
theorem everyOperationWordDecodes : Obligations.EveryOperationWordDecodes := by
  unfold Obligations.EveryOperationWordDecodes
  decide

/-- Settles O4, on each of the eight words. -/
theorem encodeOfDecodedOperationIsTheWord : Obligations.EncodeOfDecodedOperationIsTheWord := by
  unfold Obligations.EncodeOfDecodedOperationIsTheWord
  decide

theorem decodeOp_cases (w : BitVec 3) :
    (∃ x, decodeOp w = .nop x) ∨ (∃ x, decodeOp w = .ingest x) ∨ ∃ y x, decodeOp w = .reset y x := by
  obtain ⟨hnop, hingest, hreset, h | h | h⟩ := everyOperationWordDecodes w
  · exact .inl ⟨_, hnop h⟩
  · exact .inr (.inl ⟨_, hingest h⟩)
  · exact .inr (.inr ⟨_, _, hreset h⟩)

/-! Slicer selectors. -/

/-- The slicer row by the two fields of its selector. -/
theorem slicerRow_append (w : BitVec 2) (x : Bit) (last confirmed : Bool) :
    slicerRow (w ++ x) last confirmed =
      if w = 0b00#2 then (if x = 1#1 then .searchIdle else .searchStart)
      else if w = 0b01#2 then
        (if last then (if confirmed then .confirmOk else .confirmFail) else .confirmAcc)
      else if w = 0b10#2 then (if last then .sampleDecide else .sampleAcc)
      else .reserved11 := by
  simp only [slicerRow, selector_state, selector_sample]

/-- Settles O6: each line of the table takes one branch of `slicerRow_append`. -/
theorem slicerSelectorFollowsTheTable : Obligations.SlicerSelectorFollowsTheTable := by
  intro s x
  simp only [slicerSelect, slicerRow_append, lastSample, startConfirmed, onesWith]
  refine ⟨?searchIdle, ?searchStart, ?confirmAcc, ?confirmOk, ?confirmFail, ?sampleAcc, ?sampleDecide, ?reserved⟩
  case searchIdle | searchStart | confirmAcc | sampleAcc | sampleDecide =>
    intro hst hx
    simp [hst, hx]
  case confirmOk =>
    intro hst hlast hlt
    simp [hst, hlast, hlt]
  case confirmFail =>
    intro hst hlast hle
    simp [hst, hlast, Nat.not_lt.mpr hle]
  case reserved =>
    intro hst
    simp [hst]

/-! Assembler selectors and the ten data bits. -/

theorem assemblerRow_eq_push_iff {n : BitVec 4} : assemblerRow n = some .push ↔ n.toNat ≤ 8 := by
  unfold assemblerRow
  split_ifs with h8 h9 <;> simp [h8]

theorem assemblerRow_eq_complete_iff {n : BitVec 4} : assemblerRow n = some .complete ↔ n.toNat = 9 := by
  unfold assemblerRow
  split_ifs with h8 h9
  · simp; omega
  · simp [h9]
  · simp [h9]

theorem parityOf_toNat (bits : BitVec 10) : (parityOf bits).toNat = (bits.getLsbD 8).toNat := by
  simp only [parityOf, BitVec.getLsbD, Nat.toNat_testBit, BitVec.extractLsb'_toNat, Nat.shiftRight_eq_div_pow, pow_one]

theorem stopOf_toNat (bits : BitVec 10) : (stopOf bits).toNat = (bits.getLsbD 9).toNat := by
  simp only [stopOf, BitVec.getLsbD, Nat.toNat_testBit, BitVec.extractLsb'_toNat, Nat.shiftRight_eq_div_pow, pow_one]

/-- A payload byte is the sum of its bits' weights, least significant bit first (30_encoding.md R67). -/
theorem payloadOf_toNat (bits : BitVec 10) :
    (payloadOf bits).toNat = (bits.getLsbD 0).toNat + 2 * (bits.getLsbD 1).toNat + 4 * (bits.getLsbD 2).toNat +
      8 * (bits.getLsbD 3).toNat + 16 * (bits.getLsbD 4).toNat + 32 * (bits.getLsbD 5).toNat +
      64 * (bits.getLsbD 6).toNat + 128 * (bits.getLsbD 7).toNat := by
  simp only [payloadOf, BitVec.getLsbD, Nat.toNat_testBit, BitVec.extractLsb'_toNat, Nat.shiftRight_zero]
  omega

theorem stopOf_eq_zero_iff {bits : BitVec 10} : stopOf bits = 0#1 ↔ bits.getLsbD 9 = false := by
  rw [← BitVec.toNat_inj, stopOf_toNat]
  cases bits.getLsbD 9 <;> simp

/-- The completion row, with the stop bit and the parity test written out (30_encoding.md R86). -/
theorem completionRow_eq (bits : BitVec 10) :
    completionRow bits =
      if bits.getLsbD 9 = false then .failStop
      else if (popcount (payloadOf bits) + (parityOf bits).toNat) % 2 = 1 then .failParity
      else .ok := by
  simp only [completionRow, stopOf_eq_zero_iff, parityOdd, decide_eq_true_eq]

theorem completionRow_iff (bits : BitVec 10) :
    (completionRow bits = .failStop ↔ bits.getLsbD 9 = false) ∧
    (completionRow bits = .failParity ↔ bits.getLsbD 9 = true ∧
      (popcount (payloadOf bits) + (parityOf bits).toNat) % 2 = 1) ∧
    (completionRow bits = .ok ↔ bits.getLsbD 9 = true ∧
      (popcount (payloadOf bits) + (parityOf bits).toNat) % 2 = 0) := by
  rw [completionRow_eq]
  cases bits.getLsbD 9 with
  | false => simp
  | true =>
    rcases Nat.mod_two_eq_zero_or_one (popcount (payloadOf bits) + (parityOf bits).toNat) with h | h <;> simp [h]

/-- The parity bit of a byte makes its parity even (30_encoding.md R67). -/
theorem parityBit_toNat (v : Byte) : (parityBit v).toNat = popcount v % 2 := by
  simp [parityBit]

theorem parityOdd_parityBit (v : Byte) : parityOdd v (parityBit v) = false := by
  simp only [parityOdd, parityBit_toNat, decide_eq_false_iff_not]
  omega

theorem dataBitsOf_getElem? (v : Byte) {i : Nat} (hi : i < 8) :
    (dataBitsOf v)[i]? = some (v.extractLsb' i 1) := by
  simp [dataBitsOf, hi]

/-- Settles O8: the split reads the bits' weights, and a frame written stop, parity, payload splits into them. -/
theorem dataBitsAreSplitLeastSignificantFirst : Obligations.DataBitsAreSplitLeastSignificantFirst := by
  refine ⟨fun bits => ⟨payloadOf_toNat bits, parityOf_toNat bits, stopOf_toNat bits⟩, fun v => ?_⟩
  obtain ⟨hpayload, -, -⟩ := split_append 1#1 (parityBit v) v
  have hrow : completionRow (1#1 ++ parityBit v ++ v) = .ok := by
    simp [completionRow_append, parityOdd_parityBit]
  exact ⟨parityBit_toNat v, fun _ => dataBitsOf_getElem? v, hrow, hpayload⟩

/-! Framer and interpreter selectors. -/

theorem framerRow_of_rowCovers {p l : Nat} {r : FramerRow} (h : RowCovers p l r) : framerRow p l = some r := by
  cases r with
  | p1 | p2 | p3 | p4 => cases h; rfl
  | body =>
    obtain ⟨hmin, hmax⟩ := h
    exact framerRow_body hmin hmax
  | csum => cases h; exact framerRow_csum l
  | stop => cases h; exact framerRow_stop l

/-- A position is of a class exactly when it lies in the class's range (30_encoding.md R86). -/
theorem framerRow_eq_some_iff {p l : Nat} {r : FramerRow} : framerRow p l = some r ↔ RowCovers p l r :=
  ⟨rowCovers_of_framerRow, framerRow_of_rowCovers⟩

theorem addressesZero_iff {g : Generic} : g.addressesZero = true ↔ g.address1 ++ g.address2 = 0x0000#16 := by
  rw [addresses_append_eq_zero]
  simp [Generic.addressesZero]

theorem interpreterRow_eq_zeroAddr_iff {g : Generic} :
    interpreterRow g = .zeroAddr ↔ g.address1 ++ g.address2 = 0x0000#16 := by
  rw [← addressesZero_iff]
  cases h : g.addressesZero <;> simp [interpreterRow, h]

theorem interpreterRow_eq_nonzeroAddr_iff {g : Generic} :
    interpreterRow g = .nonzeroAddr ↔ g.address1 ++ g.address2 ≠ 0x0000#16 := by
  rw [ne_eq, ← interpreterRow_eq_zeroAddr_iff]
  cases interpreterRow g <;> simp

/-- Settles O5, level by level. -/
theorem selectorsChooseTheRowsOfTheTable : Obligations.SelectorsChooseTheRowsOfTheTable :=
  ⟨fun _ => ⟨assemblerRow_eq_push_iff, assemblerRow_eq_complete_iff⟩, completionRow_iff,
    fun _ _ => ⟨framerRow_eq_some_iff, framerRow_eq_some_iff, framerRow_eq_some_iff, framerRow_eq_some_iff,
      framerRow_eq_some_iff, framerRow_eq_some_iff, framerRow_eq_some_iff⟩,
    fun _ => ⟨interpreterRow_eq_zeroAddr_iff, interpreterRow_eq_nonzeroAddr_iff⟩⟩

/-! Decoding what the encoder writes, one lemma a level. -/

theorem decodeOp_nop (x : Bit) : decodeOp (0b00#2 ++ x) = .nop x := by revert x; decide

theorem decodeOp_ingest (x : Bit) : decodeOp (0b01#2 ++ x) = .ingest x := by revert x; decide

theorem decodeOp_reset (y x : Bit) : decodeOp (0b1#1 ++ y ++ x) = .reset y x := by revert y x; decide

theorem decode_slicer_append (w : BitVec 2) (x : Bit) (last confirmed : Bool) :
    decode (.slicer (w ++ x) last confirmed) = .ok ((slicerRow (w ++ x) last confirmed).instr x) := by
  simp only [decode, selector_sample]

theorem decode_completion_append (b p : Bit) (d : Byte) :
    decode (.completion (b ++ p ++ d)) =
      .ok (if b = 0#1 then .baFailStop p d else if parityOdd d p then .baFailParity p d else .baOk p d) := by
  obtain ⟨hd, hp, -⟩ := split_append b p d
  simp only [decode, completionRow_append]
  split_ifs <;> simp only [CompletionRow.instr, hd, hp]

theorem decode_interpreter_of_wellFormed {g : Generic} (h : g.wellFormed = true) :
    decode (.interpreter g) = .ok (if g.addressesZero then .zeroAddr g else .nonzeroAddr g) := by
  cases hz : g.addressesZero <;> simp [decode, h, interpreterRow, hz, InterpreterRow.instr]

/-- Settles O3, level by level: well-formedness is the parity that tells BA_FAIL_PARITY from BA_OK, and the address
class and length of a telegram. -/
theorem decodeOfEncodeIsTheInstruction : Obligations.DecodeOfEncodeIsTheInstruction := by
  intro i hi
  cases i with
  | nop x => exact congrArg Except.ok (decodeOp_nop x)
  | ingest x => exact congrArg Except.ok (decodeOp_ingest x)
  | reset y x => exact congrArg Except.ok (decodeOp_reset y x)
  | confirmAcc | confirmOk | confirmFail | sampleAcc | sampleDecide | slicerReserved11 =>
    simp [encode, decode_slicer_append, slicerRow_append, SlicerRow.instr]
  | searchIdle | searchStart | baPush | baComplete => rfl
  | frP1 | frP2 | frP3 | frP4 | frBody | frCsum | frStop => rfl
  | baFailStop => simp [encode, decode_completion_append]
  | baFailParity | baOk =>
    simp only [Instr.wellFormed, Bool.not_eq_true'] at hi
    simp [encode, decode_completion_append, hi]
  | zeroAddr g | nonzeroAddr g =>
    simp only [Instr.wellFormed, Bool.and_eq_true, Bool.not_eq_true'] at hi
    obtain ⟨hz, hwf⟩ := hi
    simp [encode, decode_interpreter_of_wellFormed hwf, hz]

/-- Settles O2: each word is decoded by evaluation. -/
theorem wordsWrittenFromTheSpecDecode : Obligations.WordsWrittenFromTheSpecDecode :=
  ⟨rfl, rfl, rfl, rfl, rfl, rfl, rfl, rfl, rfl⟩

/-! The refusal of SL_STATE = 11. -/

theorem inputRefusal_ne_slicerStateReserved {i : HostInput} : inputRefusal i s ≠ some .slicerStateReserved := by
  unfold inputRefusal
  split
  · split
    · simp
    · split_ifs <;> simp
  · simp

/-- Of the three operations only an INGEST is refused for the slicer's state, and only in SL_STATE = 11. -/
theorem exec_decodeOp_refused_reserved {w : BitVec 3} (h : exec (decodeOp w) s = .refused .slicerStateReserved) :
    s.slState = 0b11#2 := by
  obtain ⟨x, hop⟩ | ⟨x, hop⟩ | ⟨y, x, hop⟩ := decodeOp_cases w <;> rw [hop] at h
  · cases h
  · obtain ⟨-, hst⟩ | hr | hr := runSample_refused (s := clearOut s) h
    · exact hst
    · cases hr
    · cases hr
  · cases h

theorem slState_of_step_refused (h : step s = .refused .slicerStateReserved) : s.slState = 0b11#2 := by
  by_contra hst
  cases hr : inputRefusal (nextInput s) s with
  | none =>
    rw [step_of_unrefused (stepRefusal_eq_none.mpr ⟨hst, hr⟩)] at h
    exact hst (by simpa using exec_decodeOp_refused_reserved h)
  | some r =>
    simp only [step, stepRefusal, stateRefusal, if_neg hst, hr] at h
    cases h
    exact inputRefusal_ne_slicerStateReserved hr

theorem exec_ingest_reserved (x : Bit) (h : s.slState = 0b11#2) :
    exec (.ingest x) s = .refused .slicerStateReserved := by
  have hrow : slicerSelect x (clearOut s) = .reserved11 := by simp [slicerSelect, slicerRow_append, h]
  simp only [exec, execIngest, runSample, hrow, execSlicerReserved11]

/-- Settles O22: `step` refuses SL_STATE = 11 first, and no other refusal has its name. -/
theorem reservedSlicerStateIsRefused : Obligations.ReservedSlicerStateIsRefused :=
  ⟨fun _ => ⟨step_reserved, slState_of_step_refused⟩, fun _ x => ⟨rfl, exec_ingest_reserved x⟩⟩

/-! Diagnostics. -/

/-- Settles O9: the tables of tags, kinds and codes, row by row. -/
theorem diagnosticCodesFollowTheTable : Obligations.DiagnosticCodesFollowTheTable :=
  ⟨fun _ _ => ⟨rfl, rfl⟩, fun _ _ _ => ⟨rfl, rfl, rfl, rfl, rfl, rfl, rfl, rfl, rfl, rfl, rfl⟩⟩

/-- What a diagnostic reports as its position: `p` for a byte that failed, 0 for a PayloadFormatError
(30_encoding.md R84). -/
def ReportsPosition (p : BitVec 9) (o : Outputs) : Prop :=
  ∀ d, o.diag = some d → (d.kind = 1#2 ∨ d.kind = 2#2 → d.pos = p) ∧ (d.kind = 3#2 → d.pos = 0#9)

theorem reportsPosition_of_noDiag {p : BitVec 9} {o : Outputs} (h : o.diag = none) : ReportsPosition p o := by
  simp [ReportsPosition, h]

theorem reportsPosition_failedWith {d : Diag} (h : d.kind ≠ 3#2) : ReportsPosition d.pos (failedWith d s).out := by
  intro d' hd
  cases hd
  exact ⟨fun _ => rfl, fun hk => absurd hk h⟩

theorem ofNat_position_eq_nextPos {p : Nat} (h : s.frPos.toNat + 1 = p) : BitVec.ofNat 9 p = nextPos s := by
  apply BitVec.eq_of_toNat_eq
  simp [nextPos, ← h]

theorem reportsPosition_raise {c : Cause} (hc : causeKind c = .frameGrammar) (e a : Byte) {p : Nat}
    (hp : s.frPos.toNat + 1 = p) :
    ReportsPosition (nextPos s) (raise c e a (BitVec.ofNat 9 p) (appended v s)).out := by
  rw [raise_frameGrammar _ hc, ofNat_position_eq_nextPos hp]
  exact reportsPosition_failedWith (by simp [diagOf, hc, kindCode])

theorem reportsPosition_interpret {g : Generic} {p : BitVec 9} (hd : s.out.diag = none)
    (h : interpret g s = .next t) : ReportsPosition p t.out := by
  obtain ⟨o, ho, -, -, -, hdiag⟩ := interpret_next g s
  rw [ho] at h
  cases h
  change ReportsPosition p o
  rcases hdiag with hdiag | ⟨d, hdiag, hkind, hpos⟩
  · exact reportsPosition_of_noDiag (hdiag.trans hd)
  · intro d' hd'
    rw [hdiag] at hd'
    cases hd'
    simp [hkind, hpos]

/-- The constant a framer row reports is FR_POS + 1, for the row was chosen by that position (30_encoding.md R84,
R86). -/
theorem acceptByte_reportsPosition (hbuf : s.frPos.toNat = s.frBuf.length) (hd : s.out.diag = none)
    (h : acceptByte v s = .next t) : ReportsPosition (nextPos s) t.out := by
  have hkept : ReportsPosition (nextPos s) (appended v s).out := reportsPosition_of_noDiag hd
  unfold acceptByte at h
  cases hr : framerRow (s.frPos.toNat + 1) (lengthByte s) with
  | none => rw [hr] at h; cases h
  | some r =>
    rw [hr] at h
    have hp := rowCovers_of_framerRow hr
    cases r with
    | p1 | p4 =>
      obtain ⟨-, h⟩ := accepted_next s h
      split at h <;> cases h
      · exact hkept
      · exact reportsPosition_raise rfl _ _ hp
    | p2 | body =>
      obtain ⟨-, h⟩ := accepted_next s h
      cases h; exact hkept
    | p3 =>
      obtain ⟨-, h⟩ := accepted_next s h
      split at h
      · cases h; exact reportsPosition_raise rfl _ _ hp
      · split at h <;> cases h
        · exact reportsPosition_raise rfl _ _ hp
        · exact hkept
    | csum =>
      obtain ⟨-, h⟩ := accepted_next s h
      rw [lengthByte_appended s (by simp only [RowCovers] at hp; omega)] at h
      split at h <;> cases h
      · exact hkept
      · exact reportsPosition_raise rfl _ _ hp
    | stop =>
      obtain ⟨-, h⟩ := accepted_next s h
      rw [lengthByte_appended s (by simp only [RowCovers] at hp; omega)] at h
      split at h
      · exact reportsPosition_interpret (s := stopped v s) hd h
      · cases h; exact reportsPosition_raise rfl _ _ hp

theorem deliverBit_reportsPosition {b : Bit} (hbuf : s.frPos.toNat = s.frBuf.length) (hd : s.out.diag = none)
    (h : deliverBit b s = .next t) : ReportsPosition (nextPos s) t.out := by
  obtain ⟨-, rfl⟩ | ⟨-, ⟨d, rfl, hkind, hpos⟩ | h⟩ := deliverBit_cases h
  · exact reportsPosition_of_noDiag hd
  · exact hpos ▸ reportsPosition_failedWith (by simp [hkind])
  · exact acceptByte_reportsPosition (s := framed _ (pushBit b s)) hbuf hd h

theorem runSample_reportsPosition {x : Bit} (hbuf : s.frPos.toNat = s.frBuf.length) (hd : s.out.diag = none)
    (h : runSample x s = .next t) : ReportsPosition (nextPos s) t.out := by
  obtain ⟨-, rfl | ⟨-, rfl⟩ | ⟨-, rfl⟩⟩ | ⟨-, ⟨-, rfl⟩ | ⟨-, rfl | rfl⟩⟩ | ⟨-, ⟨-, rfl⟩ | ⟨-, h⟩⟩ :=
    runSample_cases h
  case inr.inr.inr => exact deliverBit_reportsPosition (s := setSlicer s.slState 0#8 0#8 s) hbuf hd h
  all_goals exact reportsPosition_of_noDiag hd

/-- Settles O43: only an INGEST gives a diagnostic, and its step starts from the FR_POS of the state. -/
theorem diagnosticReportsThePosition : Obligations.DiagnosticReportsThePosition := by
  intro s t d hbuf h
  suffices hgoal : ReportsPosition (s.frPos + 1#9) t.out from hgoal d
  obtain ⟨-, -, ⟨x, -, -, rfl⟩ | ⟨x, -, -, h⟩ | ⟨y, x, -, -, rfl⟩⟩ := step_cases h
  · exact reportsPosition_of_noDiag rfl
  · simpa [nextPos] using runSample_reportsPosition (s := clearOut (atStart s)) (by simpa using hbuf) rfl h
  · exact reportsPosition_of_noDiag rfl

end Sys2Proof.Machine
end

section
/-! PROOFS of 40_pipeline.md: the three operations (R91 to R94), an INGEST as the chain of its selected rows (R94, R98),
the end of a byte-frame (R95), the growth of LOG (R97), session creation (R99), and that no rule reads LOG, so that a
full reset decodes as a cold start (R100). -/

namespace Sys2Proof.Machine

variable {s t : State} {v : Byte}

/-! NOP and RESET. -/

/-- Settles O10: NOP clears the outputs only, and INGEST clears them again. -/
theorem nopHoldsEveryRegister : Obligations.NopHoldsEveryRegister := by
  refine ⟨rfl, rfl, fun s x => ⟨rfl, fun t y h => ?_⟩⟩
  have ht : clearOut s = t := Host.Outcome.next.inj h
  subst ht
  rfl

theorem fullReset_clearOut (s : State) : fullReset (clearOut s) = clearOut (fullReset s) := rfl

theorem fullReset_idem (s : State) : fullReset (fullReset s) = fullReset s := rfl

/-- Settles O11: a state that a full reset does not change loses its outputs only. -/
theorem resetGivesTheResetState : Obligations.ResetGivesTheResetState := by
  refine ⟨decodeOp_reset, fun s y x => ⟨rfl, fun h => ?_⟩⟩
  change (.next (fullReset (clearOut s)) : Result) = .next (clearOut s)
  rw [fullReset_clearOut, h]

/-! Sessions, and the operation a step runs. -/

/-- Settles O46: the reset registers meet the invariant under every legal configuration, the default one among them. -/
theorem newSessionMeetsTheInvariant : Obligations.NewSessionMeetsTheInvariant :=
  ⟨fun _ ops hc => inv_create hc ops, inv_create (c := Cfg.defaults) (by decide) []⟩

theorem startFrom_of_reset (hc : s.cfg.Legal) (h : fullReset s = s) : startFrom s = .next s := by
  simp only [startFrom, if_pos hc, if_pos h]

/-- Settles O15: the tests of `createSession` and `startFrom`, and RESET answers a state that a full reset keeps. -/
theorem runsStartFromTheResetState : Obligations.RunsStartFromTheResetState := by
  refine ⟨fun c => ⟨fun hc => if_pos hc, fun hc => if_neg ?_⟩, fun s hc => ⟨startFrom_of_reset hc, fun h => ?_⟩,
    fun s hc => if_neg hc, fun s y x hc => ⟨_, rfl, startFrom_of_reset hc (fullReset_idem _)⟩⟩
  · rintro ⟨hmin, hmax⟩
    omega
  · simp only [startFrom, if_pos hc, if_neg h]

/-- With the configuration that holds asked for, or none, no configuration is refused and none is latched. -/
theorem step_of_same_cfg (hst : s.slState ≠ 0b11#2) (hl : s.cfg.Legal)
    (hc : (nextInput s).cfg = none ∨ (nextInput s).cfg = some s.cfg) :
    step s = exec (decodeOp (nextInput s).op) (takeInput s) := by
  have hin : inputRefusal (nextInput s) s = none := by
    rcases hc with hc | hc <;> simp [inputRefusal, hl, hc]
  have hstart : atStart s = takeInput s := by
    rcases hc with hc | hc
    · simp only [atStart, latchConfig, hc]
    · simp only [atStart, latchConfig, hc]
      rfl
  rw [step_of_unrefused (stepRefusal_eq_none.mpr ⟨hst, hin⟩), hstart]

theorem nextInput_of_cons {i : HostInput} {rest : List HostInput} (h : s.inputs = i :: rest) : nextInput s = i := by
  simp only [nextInput, h]

theorem nextInput_of_nil (h : s.inputs = []) : nextInput s = { op := 0b000#3 } := by
  simp only [nextInput, h]

theorem takeInput_of_cons {i : HostInput} {rest : List HostInput} (h : s.inputs = i :: rest) :
    takeInput s = { s with inputs := rest } := by
  simp only [takeInput, h, List.tail_cons]

theorem takeInput_of_nil (h : s.inputs = []) : takeInput s = s := by
  simp only [takeInput, h, List.tail_nil]
  rw [← h]

theorem step_of_cons (hst : s.slState ≠ 0b11#2) (hl : s.cfg.Legal) {i : HostInput} {rest : List HostInput}
    (h : s.inputs = i :: rest) (hc : i.cfg = none ∨ i.cfg = some s.cfg) :
    step s = exec (decodeOp i.op) { s with inputs := rest } := by
  have hi := nextInput_of_cons h
  rw [step_of_same_cfg hst hl (by rwa [hi]), hi, takeInput_of_cons h]

/-- Settles O13: the operation is the first presented, or the NOP word where none is. -/
theorem stepRunsTheDecodedOperation : Obligations.StepRunsTheDecodedOperation := by
  intro s hst hl
  refine ⟨fun w rest h => step_of_cons hst hl h (.inl rfl), fun w rest h => step_of_cons hst hl h (.inr rfl),
    fun h => ?_⟩
  have hi := nextInput_of_nil h
  rw [step_of_same_cfg hst hl (.inl (by rw [hi])), hi, takeInput_of_nil h]
  rfl

/-! An INGEST as the chain of its rows: what each layer hands on is `exec` of the row its selector chooses. -/

theorem runSample_eq_exec (x : Bit) (s : State) : runSample x s = exec ((slicerSelect x s).instr x) s := by
  unfold runSample
  cases slicerSelect x s <;> rfl

theorem deliverBit_eq_exec {r : AssemblerRow} (h : assemblerRow s.baN = some r) (b : Bit) :
    deliverBit b s = exec (r.instr b) s := by
  simp only [deliverBit, h]
  cases r <;> rfl

theorem acceptByte_eq_exec {r : FramerRow} (h : framerRow (s.frPos.toNat + 1) (lengthByte s) = some r) (v : Byte) :
    acceptByte v s = exec (r.instr v) s := by
  simp only [acceptByte, h]
  cases r <;> rfl

theorem baComplete_eq_exec (b : Bit) (s : State) :
    exec (.baComplete b) s = exec ((completionRow (pushBit b s).baBits).instr (pushBit b s).baBits) (pushBit b s) := by
  simp only [exec, execBaComplete]
  cases completionRow (pushBit b s).baBits <;> rfl

theorem interpret_eq_exec (g : Generic) (s : State) : interpret g s = exec ((interpreterRow g).instr g) s := by
  unfold interpret
  cases interpreterRow g <;> rfl

/-- Settles O7: no selector of a layer reads what the row above it writes. -/
theorem ingestIsTheChainOfSelectedRows : Obligations.IngestIsTheChainOfSelectedRows :=
  ⟨fun s x => runSample_eq_exec x (clearOut s),
    fun s x _ h => deliverBit_eq_exec (s := setSlicer s.slState 0#8 0#8 s) h (majority (onesWith x s) s.cfg.n),
    fun s _ d _ h => acceptByte_eq_exec (s := emitByte d (endByteFrame s)) h d⟩

/-! LOG and the record on OUT_REC. -/

/-- LOG of `t` is that of `s` with the record on OUT_REC, which is the interpreter's for the telegram on OUT_TG
(40_pipeline.md R97). -/
def LogsItsRecord (s t : State) : Prop :=
  t.log = s.log ++ t.out.record.toList ∧ t.out.record = t.out.tg.bind (recordOf s.cfg)

theorem logsItsRecord_of_noTelegram (hl : t.log = s.log) (ht : t.out.tg = none) (hr : t.out.record = none) :
    LogsItsRecord s t := by
  simp [LogsItsRecord, hl, ht, hr]

theorem acceptByte_logsItsRecord (ht : s.out.tg = none) (hr : s.out.record = none) (h : acceptByte v s = .next t) :
    LogsItsRecord s t := by
  obtain ⟨-, rfl | ⟨d, rfl, -⟩ | ⟨-, -, h⟩⟩ := acceptByte_cases h
  · exact logsItsRecord_of_noTelegram rfl ht hr
  · exact logsItsRecord_of_noTelegram rfl ht hr
  · obtain ⟨o, ho, -, htg, hrec, -⟩ := interpret_next (buildTelegram (appended v s)) (stopped v s)
    rw [ho] at h
    cases h
    have hrec' : o.record = recordOf s.cfg (buildTelegram (appended v s)) := hrec hr
    have htg' : o.tg = some (buildTelegram (appended v s)) := htg
    exact ⟨by rw [hrec']; rfl, by rw [hrec', htg']; rfl⟩

theorem deliverBit_logsItsRecord {b : Bit} (hs : s.out = {}) (h : deliverBit b s = .next t) : LogsItsRecord s t := by
  obtain ⟨-, rfl⟩ | ⟨-, ⟨d, rfl, -⟩ | h⟩ := deliverBit_cases h
  · exact logsItsRecord_of_noTelegram rfl (by simp [hs]) (by simp [hs])
  · exact logsItsRecord_of_noTelegram rfl (by simp [failedWith, hs]) (by simp [failedWith, hs])
  · exact acceptByte_logsItsRecord (s := framed _ (pushBit b s)) (by simp [framed, hs]) (by simp [framed, hs]) h

theorem runSample_logsItsRecord {x : Bit} (hs : s.out = {}) (h : runSample x s = .next t) : LogsItsRecord s t := by
  have hquiet : ∀ u : State, u.log = s.log → u.out = s.out → LogsItsRecord s u := fun u hlog hout =>
    logsItsRecord_of_noTelegram hlog (by simp [hout, hs]) (by simp [hout, hs])
  obtain ⟨-, rfl | ⟨-, rfl⟩ | ⟨-, rfl⟩⟩ | ⟨-, ⟨-, rfl⟩ | ⟨-, rfl | rfl⟩⟩ | ⟨-, ⟨-, rfl⟩ | ⟨-, h⟩⟩ :=
    runSample_cases h
  case inr.inr.inr => exact deliverBit_logsItsRecord (s := setSlicer s.slState 0#8 0#8 s) hs h
  all_goals exact hquiet _ rfl rfl

/-- Settles O39: NOP and RESET keep LOG and emit nothing, and INGEST logs what its sample does. -/
theorem logGrowsByTheInterpretersRecord : Obligations.LogGrowsByTheInterpretersRecord := by
  intro s t h
  obtain ⟨-, -, ⟨x, -, -, rfl⟩ | ⟨x, -, hcfg, h⟩ | ⟨y, x, -, -, rfl⟩⟩ := step_cases h
  · exact logsItsRecord_of_noTelegram (by simp) rfl rfl
  · simpa [LogsItsRecord, hcfg] using runSample_logsItsRecord (s := clearOut (atStart s)) rfl h
  · exact logsItsRecord_of_noTelegram (by simp) rfl rfl

/-! The end of a byte-frame. -/

/-- A byte-frame of `s` has ended in `t`: the slicer is in SEARCH, the assembler empty, and counters that were 0 are
still 0 (40_pipeline.md R95). -/
def ByteFrameEnded (s t : State) : Prop :=
  t.slState = slSearch ∧ t.baN = 0#4 ∧ t.baBits = 0#10 ∧ t.cfg = s.cfg ∧ t.inputs = s.inputs ∧
  (s.slCnt = 0#8 → t.slCnt = 0#8) ∧ (s.slOnes = 0#8 → t.slOnes = 0#8)

theorem byteFrameEnded_failedWith (d : Diag) (s : State) : ByteFrameEnded s (failedWith d s) :=
  ⟨rfl, rfl, rfl, rfl, rfl, fun _ => rfl, fun _ => rfl⟩

/-- Whatever the framer and the interpreter do with the byte, they leave the slicer and the assembler as BA_OK does. -/
theorem acceptByte_framed_ends {d : Byte} (h : acceptByte v (framed d s) = .next t) : ByteFrameEnded s t := by
  obtain ⟨-, rfl | ⟨e, rfl, -⟩ | ⟨-, -, h⟩⟩ := acceptByte_cases h
  · exact ⟨rfl, rfl, rfl, rfl, rfl, id, id⟩
  · exact byteFrameEnded_failedWith e (framed d s)
  · obtain ⟨o, ho, -⟩ := interpret_next (buildTelegram (appended v (framed d s))) (stopped v (framed d s))
    rw [ho] at h
    cases h
    exact ⟨rfl, rfl, rfl, rfl, rfl, id, id⟩

/-- Between steps FR_POS + 1 is a position that a rule names (10_state.md R35, 30_encoding.md R86). -/
theorem framerRow_ne_none_of_framerInv (h : FramerInv s) : framerRow (s.frPos.toNat + 1) (lengthByte s) ≠ none := by
  obtain ⟨hpos, -, -, -, hlen⟩ := h
  refine framerRow_ne_none (by omega) ?_
  by_cases h4 : 4 ≤ s.frBuf.length
  · obtain ⟨-, hmax, -⟩ := hlen h4
    omega
  · omega

theorem acceptByte_completes_of_framerInv (h : FramerInv s) (v : Byte) : ∃ t, acceptByte v s = .next t := by
  obtain ⟨-, hmax, -⟩ := id h
  exact acceptByte_completes (by omega) (framerRow_ne_none_of_framerInv h)

theorem baComplete_completes (h : FramerInv s) (b : Bit) : ∃ t, exec (.baComplete b) s = .next t := by
  rw [baComplete_eq_exec]
  cases completionRow (pushBit b s).baBits with
  | failStop | failParity => exact ⟨_, rfl⟩
  | ok => exact acceptByte_completes_of_framerInv (s := framed _ (pushBit b s)) (framerInv_congr rfl rfl h) _

theorem deliverBit_of_baN_eq_nine (hn : s.baN.toNat = 9) (b : Bit) : deliverBit b s = exec (.baComplete b) s :=
  deliverBit_eq_exec (assemblerRow_eq_complete_iff.mpr hn) b

/-- The tenth data bit ends the byte-frame whichever completion row it chooses. -/
theorem baComplete_ends (hn : s.baN.toNat = 9) (h : FramerInv s) (b : Bit) :
    ∃ t, exec (.baComplete b) s = .next t ∧ ByteFrameEnded s t := by
  obtain ⟨t, ht⟩ := baComplete_completes h b
  refine ⟨t, ht, ?_⟩
  obtain ⟨h8, -⟩ | ⟨-, ⟨d, rfl, -⟩ | haccept⟩ := deliverBit_cases ((deliverBit_of_baN_eq_nine hn b).trans ht)
  · omega
  · exact byteFrameEnded_failedWith d s
  · exact acceptByte_framed_ends haccept

/-- Settles O45: SAMPLE_DECIDE clears the counters and hands its bit to BA_COMPLETE, for BA_N is 9. -/
theorem byteFrameAlwaysEnds : Obligations.ByteFrameAlwaysEnds := by
  intro s b hinv hn
  obtain ⟨-, -, hfr, -⟩ := hinv
  constructor
  · obtain ⟨t, ht, hst, hbn, hbb, hcfg, hin, -⟩ := baComplete_ends hn hfr b
    exact ⟨t, ht, hst, hbn, hbb, hcfg, hin⟩
  · obtain ⟨t, ht, hst, hbn, hbb, hcfg, hin, hcnt, hones⟩ :=
      baComplete_ends (s := setSlicer s.slState 0#8 0#8 s) hn (framerInv_congr rfl rfl hfr)
        (majority (onesWith b s) s.cfg.n)
    have hdecide := deliverBit_of_baN_eq_nine (s := setSlicer s.slState 0#8 0#8 s) hn
    exact ⟨t, (hdecide _).trans ht, hst, hcnt rfl, hones rfl, hbn, hbb, hcfg, hin⟩

/-! No rule reads LOG: every function of the layers commutes with older records in front of it. -/

/-- `f` does the same whatever older records stand in LOG, and keeps them (40_pipeline.md R100). -/
def IgnoresLog (f : State → Result) : Prop :=
  ∀ (older : List Record) (s : State), f (withOlderLog older s) = mapNext (withOlderLog older) (f s)

theorem logRecord_withOlderLog (r : Record) (older : List Record) (s : State) :
    logRecord r (withOlderLog older s) = withOlderLog older (logRecord r s) := by
  simp [logRecord, withOlderLog]

theorem raise_withOlderLog (c : Cause) (e a : Byte) (p : BitVec 9) (older : List Record) (s : State) :
    raise c e a p (withOlderLog older s) = withOlderLog older (raise c e a p s) := by
  unfold raise
  cases causeKind c <;> rfl

theorem failDecode_withOlderLog (g : Generic) (f : DecodeFailure) (older : List Record) (s : State) :
    failDecode g f (withOlderLog older s) = withOlderLog older (failDecode g f s) := by
  unfold failDecode
  change (if s.cfg.dtFailKeepsGeneric then _ else _) = _
  cases s.cfg.dtFailKeepsGeneric with
  | true => simp only [if_true, raise_withOlderLog, logRecord_withOlderLog]
  | false => exact raise_withOlderLog ..

theorem IgnoresLog.ite {c : State → Prop} [DecidablePred c] {f g : State → Result}
    (hc : ∀ older s, c (withOlderLog older s) ↔ c s) (hf : IgnoresLog f) (hg : IgnoresLog g) :
    IgnoresLog fun s => if c s then f s else g s := by
  intro older s
  simp only [hc, apply_ite (mapNext (withOlderLog older)), hf older s, hg older s]

theorem ignoresLog_next {f : State → State} (h : ∀ older s, f (withOlderLog older s) = withOlderLog older (f s)) :
    IgnoresLog fun s => .next (f s) :=
  fun older s => congrArg Host.Outcome.next (h older s)

theorem ignoresLog_accepted {check : State → Result} (h : IgnoresLog check) (v : Byte) :
    IgnoresLog fun s => accepted v s check := by
  intro older s
  by_cases hroom : s.frBuf.length < 261
  · simp only [accepted_of_room s hroom, accepted_of_room (withOlderLog older s) hroom]
    exact h older (appended v s)
  · simp only [accepted_full s (Nat.not_lt.mp hroom), accepted_full (withOlderLog older s) (Nat.not_lt.mp hroom)]
    rfl

theorem zeroAddr_ignoresLog (g : Generic) : IgnoresLog (exec (.zeroAddr g)) := by
  intro older s
  simp only [exec, execZeroAddr]
  cases decodeDateTime g.payload with
  | ok d => exact congrArg Host.Outcome.next (logRecord_withOlderLog ..)
  | error f => exact congrArg Host.Outcome.next (failDecode_withOlderLog ..)

theorem nonzeroAddr_ignoresLog (g : Generic) : IgnoresLog (exec (.nonzeroAddr g)) :=
  ignoresLog_next (logRecord_withOlderLog _)

theorem interpret_ignoresLog (g : Generic) : IgnoresLog (interpret g) := by
  intro older s
  rw [interpret_eq_exec, interpret_eq_exec]
  cases interpreterRow g with
  | zeroAddr => exact zeroAddr_ignoresLog g older s
  | nonzeroAddr => exact nonzeroAddr_ignoresLog g older s

/-- Each position class checks bytes of the buffer, and goes on, fails, or hands a telegram to the interpreter. -/
theorem framerRow_ignoresLog (r : FramerRow) (v : Byte) : IgnoresLog (exec (r.instr v)) := by
  have hstay : IgnoresLog .next := ignoresLog_next (f := id) fun _ _ => rfl
  cases r with
  | p1 | p4 =>
    exact ignoresLog_accepted (.ite (fun _ _ => .rfl) hstay (ignoresLog_next fun _ _ => rfl)) v
  | p2 | body => exact ignoresLog_accepted hstay v
  | p3 =>
    exact ignoresLog_accepted (.ite (fun _ _ => .rfl) (ignoresLog_next fun _ _ => rfl)
      (.ite (fun _ _ => .rfl) (ignoresLog_next fun _ _ => rfl) hstay)) v
  | csum =>
    exact ignoresLog_accepted (.ite (fun _ _ => .rfl) hstay (ignoresLog_next fun _ _ => rfl)) v
  | stop =>
    refine ignoresLog_accepted (.ite (fun _ _ => .rfl) (fun older u => ?_) (ignoresLog_next fun _ _ => rfl)) v
    exact interpret_ignoresLog (buildTelegram u) older (emitTelegram (buildTelegram u) (memClear u))

theorem acceptByte_of_noRow (h : framerRow (s.frPos.toNat + 1) (lengthByte s) = none) :
    acceptByte v s = .refused .framerPositionReserved := by
  simp only [acceptByte, h]

theorem acceptByte_ignoresLog (v : Byte) : IgnoresLog (acceptByte v) := by
  intro older s
  cases hr : framerRow (s.frPos.toNat + 1) (lengthByte s) with
  | none =>
    rw [acceptByte_of_noRow hr, acceptByte_of_noRow (s := withOlderLog older s) hr]
    rfl
  | some r =>
    rw [acceptByte_eq_exec hr, acceptByte_eq_exec (s := withOlderLog older s) hr]
    exact framerRow_ignoresLog r v older s

theorem baOk_ignoresLog (p : Bit) (d : Byte) : IgnoresLog (exec (.baOk p d)) :=
  fun older s => acceptByte_ignoresLog d older (emitByte d (endByteFrame s))

theorem baComplete_ignoresLog (b : Bit) : IgnoresLog (exec (.baComplete b)) := by
  intro older s
  rw [baComplete_eq_exec b s, baComplete_eq_exec]
  change exec ((completionRow (pushBit b s).baBits).instr (pushBit b s).baBits) (withOlderLog older (pushBit b s)) = _
  cases completionRow (pushBit b s).baBits with
  | failStop | failParity => rfl
  | ok => exact baOk_ignoresLog _ _ older (pushBit b s)

theorem deliverBit_of_noRow {b : Bit} (h : assemblerRow s.baN = none) :
    deliverBit b s = .refused .assemblerIndexReserved := by
  simp only [deliverBit, h]

theorem deliverBit_ignoresLog (b : Bit) : IgnoresLog (deliverBit b) := by
  intro older s
  cases hr : assemblerRow s.baN with
  | none =>
    rw [deliverBit_of_noRow hr, deliverBit_of_noRow (s := withOlderLog older s) hr]
    rfl
  | some r =>
    rw [deliverBit_eq_exec hr, deliverBit_eq_exec (s := withOlderLog older s) hr]
    cases r with
    | push => rfl
    | complete => exact baComplete_ignoresLog b older s

theorem confirmDecide_ignoresLog : IgnoresLog confirmDecide :=
  .ite (fun _ _ => .rfl) (ignoresLog_next (f := startSampling) fun _ _ => rfl)
    (ignoresLog_next (f := backToSearch) fun _ _ => rfl)

theorem searchStart_ignoresLog : IgnoresLog (exec .searchStart) := by
  refine .ite (fun _ _ => .rfl) (fun older s => ?_)
    (ignoresLog_next (f := setSlicer slConfirm 1#8 0#8) fun _ _ => rfl)
  exact confirmDecide_ignoresLog older (setSlicer s.slState 1#8 0#8 s)

theorem runSample_ignoresLog (x : Bit) : IgnoresLog (runSample x) := by
  intro older s
  rw [runSample_eq_exec, runSample_eq_exec]
  change exec ((slicerSelect x s).instr x) (withOlderLog older s) = _
  cases slicerSelect x s with
  | searchStart => exact searchStart_ignoresLog older s
  | sampleDecide =>
    exact deliverBit_ignoresLog (majority (onesWith x s) s.cfg.n) older (setSlicer s.slState 0#8 0#8 s)
  | searchIdle | confirmAcc | confirmOk | confirmFail | sampleAcc | reserved11 => rfl

theorem exec_decodeOp_ignoresLog (w : BitVec 3) : IgnoresLog (exec (decodeOp w)) := by
  intro older s
  obtain ⟨x, hop⟩ | ⟨x, hop⟩ | ⟨y, x, hop⟩ := decodeOp_cases w <;> rw [hop]
  · rfl
  · exact runSample_ignoresLog x older (clearOut s)
  · rfl

theorem atStart_withOlderLog (older : List Record) (s : State) :
    atStart (withOlderLog older s) = withOlderLog older (atStart s) := by
  change latchConfig (nextInput s) (withOlderLog older (takeInput s)) = _
  simp only [atStart, latchConfig]
  cases (nextInput s).cfg <;> rfl

theorem step_of_refused {r : Refusal} (h : stepRefusal (nextInput s) s = some r) : step s = .refused r := by
  simp only [step, h]

/-- Settles O51: neither a refusal nor the operation's meaning reads LOG. -/
theorem noRuleReadsTheLog : Obligations.NoRuleReadsTheLog := by
  intro s older
  cases hr : stepRefusal (nextInput s) s with
  | some r =>
    rw [step_of_refused hr, step_of_refused (s := withOlderLog older s) hr]
    rfl
  | none =>
    rw [step_of_unrefused hr, step_of_unrefused (s := withOlderLog older s) hr, atStart_withOlderLog]
    exact exec_decodeOp_ignoresLog (nextInput s).op older (atStart s)

theorem runSteps_ignoresLog (k : Nat) : IgnoresLog (runSteps k) := by
  intro older s
  induction k generalizing s with
  | zero => rfl
  | succ k ih =>
    simp only [runSteps, noRuleReadsTheLog s older]
    cases step s with
    | next u => exact ih u
    | fault r => rfl
    | refused r => rfl

/-- Settles O50: the full reset of a state is a new session with the state's LOG in front. -/
theorem resetDecodesAsAColdStart : Obligations.ResetDecodesAsAColdStart := by
  intro s ops k
  have hcold : { fullReset s with inputs := ops, out := {} } =
      withOlderLog s.log { State.create s.cfg with inputs := ops } := by
    simp [withOlderLog, fullReset, State.create]
  rw [hcold]
  exact runSteps_ignoresLog k s.log _

end Sys2Proof.Machine
end

section
/-! PROOFS of 41_bitslicer.md: the slicer's rows (R102, R103, R105, R107, R108), a sample in each slicer state, the
majority bit (R101), and the 11N samples of a byte-frame (R111, R112). -/

namespace Sys2Proof.Machine

variable {s t : State}

/-! The rows that deliver no bit. -/

theorem searchStart_of_n_ne_one (h : s.cfg.n ≠ 1) : exec .searchStart s = .next (setSlicer slConfirm 1#8 0#8 s) :=
  if_neg h

/-- With N = 1 the start symbol is complete at once, with no 1 among its samples (41_bitslicer.md R108). -/
theorem searchStart_of_n_eq_one (h : s.cfg.n = 1) : exec .searchStart s = .next (startSampling s) := by
  have hconfirmed : startConfirmed (0#8).toNat s.cfg.n = true := by simp [startConfirmed, h]
  exact (if_pos h).trans (if_pos hconfirmed)

theorem confirmFail_eq (x : Bit) (s : State) : exec (.confirmFail x) s = .next (backToSearch s) :=
  congrArg Host.Outcome.next (raise_bitSync _ (c := .startNotConfirmed) rfl ..)

/-- Settles O20: raising a bit-sync error changes nothing, so the return to SEARCH is all that is left. -/
theorem bitSyncFailureTouchesOnlyTheSlicer : Obligations.BitSyncFailureTouchesOnlyTheSlicer :=
  fun s x => confirmFail_eq x s

/-- Settles O19: only SEARCH_START tests anything, which is N. -/
theorem slicerTransitionsComplete : Obligations.SlicerTransitionsComplete :=
  fun _ _ => ⟨rfl, searchStart_of_n_ne_one, searchStart_of_n_eq_one, rfl, rfl, rfl⟩

/-! One sample, in each slicer state. -/

/-- An INGEST is the row its selector chooses, which does not read the outputs. -/
theorem ingest_eq_exec {x : Bit} {r : SlicerRow} (h : slicerSelect x s = r) :
    exec (.ingest x) s = exec (r.instr x) (clearOut s) :=
  h ▸ runSample_eq_exec x (clearOut s)

/-- Settles O16: the rows of the selectors `001` and `000`. -/
theorem sampleInSearch : Obligations.SampleInSearch := by
  intro s x hst
  obtain ⟨hidle, hstart, -⟩ := slicerSelectorFollowsTheTable s x
  refine ⟨fun hx => ingest_eq_exec (hidle hst hx), fun hx hn => ?_, fun hx hn => ?_⟩
  · exact (ingest_eq_exec (hstart hst hx)).trans (searchStart_of_n_ne_one (s := clearOut s) hn)
  · exact (ingest_eq_exec (hstart hst hx)).trans (searchStart_of_n_eq_one (s := clearOut s) hn)

/-- Settles O17: the three rows of CONFIRM, told apart by `last` and `2*ones' < N`. -/
theorem sampleInConfirm : Obligations.SampleInConfirm := by
  intro s x hst
  obtain ⟨-, -, hacc, hok, hfail, -⟩ := slicerSelectorFollowsTheTable s x
  refine ⟨fun hlast => ingest_eq_exec (hacc hst hlast), fun hlast hlt => ingest_eq_exec (hok hst hlast hlt),
    fun hlast hle => ?_⟩
  exact (ingest_eq_exec (hfail hst hlast hle)).trans (confirmFail_eq x (clearOut s))

theorem ingest_sampleAcc (hst : s.slState = slSample) (hlast : s.slCnt.toNat + 1 ≠ s.cfg.n) (x : Bit) :
    exec (.ingest x) s = .next (countSample x (clearOut s)) := by
  obtain ⟨-, -, -, -, -, hacc, -⟩ := slicerSelectorFollowsTheTable s x
  exact ingest_eq_exec (hacc hst hlast)

theorem ingest_sampleDecide (hst : s.slState = slSample) (hlast : s.slCnt.toNat + 1 = s.cfg.n) (x : Bit) :
    exec (.ingest x) s =
      deliverBit (majority (onesWith x s) s.cfg.n) (setSlicer s.slState 0#8 0#8 (clearOut s)) := by
  obtain ⟨-, -, -, -, -, -, hdecide, -⟩ := slicerSelectorFollowsTheTable s x
  exact ingest_eq_exec (hdecide hst hlast)

theorem majority_eq_one_iff {ones n : Nat} : majority ones n = 1#1 ↔ 2 * ones > n := by
  unfold majority
  split_ifs with h <;> simp [h]

/-- A bit that is 1 exactly when `2*ones > N` is the majority bit (41_bitslicer.md R101). -/
theorem majority_eq_of_iff {ones n : Nat} {b : Bit} (h : b = 1#1 ↔ 2 * ones > n) : majority ones n = b := by
  rw [← majority_eq_one_iff] at h
  rcases bit_cases b with rfl | rfl
  · exact (bit_cases _).resolve_right fun h1 => absurd (h.mpr h1) (by decide)
  · exact h.mp rfl

theorem deliverBit_of_baN_le_eight (hn : s.baN.toNat ≤ 8) (b : Bit) : deliverBit b s = exec (.baPush b) s :=
  deliverBit_eq_exec (assemblerRow_eq_push_iff.mpr hn) b

/-- Settles O18: the Nth sample hands the majority bit to the row BA_N chooses. -/
theorem sampleInSample : Obligations.SampleInSample := by
  intro s x hst
  refine ⟨fun hlast => ingest_sampleAcc hst hlast x, fun b hlast hb => ?_⟩
  have hmajority : majority (onesWith x s) s.cfg.n = b := majority_eq_of_iff hb
  rw [ingest_sampleDecide hst hlast x, hmajority]
  exact ⟨fun hn => deliverBit_of_baN_le_eight (s := setSlicer s.slState 0#8 0#8 (clearOut s)) hn b,
    fun hn => deliverBit_of_baN_eq_nine (s := setSlicer s.slState 0#8 0#8 (clearOut s)) hn b⟩

theorem majority_getLsbD_zero (ones n : Nat) : (majority ones n).getLsbD 0 = decide (2 * ones > n) := by
  unfold majority
  split_ifs with h <;> simp [h]

/-- Settles O21: SAMPLE_DECIDE pushes the majority bit, and the push writes bit BA_N and keeps every other. -/
theorem majorityBitIsPushed : Obligations.MajorityBitIsPushed := by
  intro s x hn
  refine ⟨setBit s.baBits s.baN.toNat (majority (onesWith x s) s.cfg.n),
    deliverBit_of_baN_le_eight (s := setSlicer s.slState 0#8 0#8 s) hn _, fun i hi => ?_⟩
  rw [setBit_getLsbD i hi, majority_getLsbD_zero]
  rfl

/-! Runs of steps. -/

theorem runSteps_one (s : State) : runSteps 1 s = step s := by
  simp only [runSteps]
  cases step s <;> rfl

theorem runSteps_succ (h : step s = .next t) (k : Nat) : runSteps (k + 1) s = runSteps k t := by
  simp only [runSteps, h]

theorem runSteps_add {j : Nat} (h : runSteps j s = .next t) (k : Nat) : runSteps (j + k) s = runSteps k t := by
  induction j generalizing s with
  | zero => cases h; rw [Nat.zero_add]
  | succ j ih =>
    cases hstep : step s with
    | next u =>
      rw [runSteps_succ hstep] at h
      rw [Nat.succ_add, runSteps_succ hstep, ih h]
    | fault r => simp [runSteps, hstep] at h
    | refused r => simp [runSteps, hstep] at h

/-- What the host presents for a clean symbol of `k` samples `b`. -/
def symbolInputs (k : Nat) (b : Bit) : List HostInput := List.replicate k { op := opSample b }

theorem map_symbol (k : Nat) (b : Bit) : (symbol k b).map (fun w => ({ op := w } : HostInput)) = symbolInputs k b :=
  List.map_replicate

/-- The step of a sample presented by the host is its INGEST. -/
theorem step_sample (hst : s.slState ≠ 0b11#2) (hl : s.cfg.Legal) (b : Bit) (rest : List HostInput) :
    step { s with inputs := { op := opSample b } :: rest } = exec (.ingest b) { s with inputs := rest } := by
  rw [step_of_cons (s := { s with inputs := { op := opSample b } :: rest }) hst hl rfl (.inl rfl)]
  simp only [opSample, decodeOp_ingest]

/-! A clean symbol: the samples before its last are counted, in CONFIRM and in SAMPLE alike. -/

/-- The samples of the current symbol were all `b` so far. -/
def AllSamplesAre (b : Bit) (s : State) : Prop := s.slOnes = b.setWidth 8 * s.slCnt

/-- `s` with N - 1 samples `b` of the current symbol counted. -/
def beforeLast (b : Bit) (s : State) : State :=
  setSlicer s.slState (BitVec.ofNat 8 (s.cfg.n - 1)) (b.setWidth 8 * BitVec.ofNat 8 (s.cfg.n - 1)) s

theorem allSamplesAre_countSample {b : Bit} (h : AllSamplesAre b s) : AllSamplesAre b (countSample b s) := by
  simp only [AllSamplesAre, countSample_slOnes, countSample_slCnt, BitVec.mul_add, BitVec.mul_one]
  rw [h]

theorem beforeLast_eq_self {b : Bit} (h : AllSamplesAre b s) (hcnt : s.slCnt.toNat + 1 = s.cfg.n) :
    beforeLast b s = s := by
  have hc : BitVec.ofNat 8 (s.cfg.n - 1) = s.slCnt := by
    rw [← hcnt, Nat.add_sub_cancel, BitVec.ofNat_toNat, BitVec.setWidth_eq]
  have ho : b.setWidth 8 * s.slCnt = s.slOnes := h.symm
  simp only [beforeLast, hc, ho, setSlicer]

theorem beforeLast_slCnt_toNat (hl : s.cfg.Legal) (b : Bit) : (beforeLast b s).slCnt.toNat + 1 = s.cfg.n := by
  obtain ⟨hmin, hmax⟩ := hl
  simp [beforeLast]
  omega

/-- A clean symbol has all its samples ones, or none. -/
theorem onesWith_beforeLast (hl : s.cfg.Legal) (b : Bit) : onesWith b (beforeLast b s) = b.toNat * s.cfg.n := by
  have hcnt : (BitVec.ofNat 8 (s.cfg.n - 1)).toNat + 1 = s.cfg.n := beforeLast_slCnt_toNat hl b
  rcases bit_cases b with rfl | rfl
  · simp [onesWith, beforeLast]
  · simpa [onesWith, beforeLast] using hcnt

theorem majority_of_clean {n : Nat} (hn : 1 ≤ n) (b : Bit) : majority (b.toNat * n) n = b := by
  refine majority_eq_of_iff ?_
  rcases bit_cases b with rfl | rfl
  · simp
  · simp; omega

/-- In CONFIRM and in SAMPLE a sample that is not the Nth is counted. -/
theorem ingest_of_not_last (hst : s.slState = slConfirm ∨ s.slState = slSample)
    (hlast : s.slCnt.toNat + 1 ≠ s.cfg.n) (x : Bit) : exec (.ingest x) s = .next (countSample x (clearOut s)) := by
  rcases hst with hst | hst
  · obtain ⟨hacc, -⟩ := sampleInConfirm s x hst
    exact hacc hlast
  · exact ingest_sampleAcc hst hlast x

theorem clearOut_eq_self (h : s.out = {}) : clearOut s = s := by
  simp only [clearOut, ← h]

/-- The samples of a clean symbol before its last are counted, and its last is an INGEST of the Nth sample. -/
theorem runSteps_toLast {k : Nat} {b : Bit} {rest : List HostInput} (hl : s.cfg.Legal)
    (hst : s.slState = slConfirm ∨ s.slState = slSample) (hout : s.out = {}) (hall : AllSamplesAre b s)
    (hcnt : s.slCnt.toNat + k + 1 = s.cfg.n) :
    runSteps (k + 1) { s with inputs := symbolInputs (k + 1) b ++ rest } =
      exec (.ingest b) (beforeLast b { s with inputs := rest }) := by
  have hne : s.slState ≠ 0b11#2 := by rcases hst with hst | hst <;> rw [hst] <;> decide
  induction k generalizing s with
  | zero =>
    rw [runSteps_one, beforeLast_eq_self (s := { s with inputs := rest }) hall hcnt]
    exact step_sample hne hl b rest
  | succ k ih =>
    have hstep : step { s with inputs := symbolInputs (k + 2) b ++ rest } =
        .next { countSample b s with inputs := symbolInputs (k + 1) b ++ rest } := by
      calc step { s with inputs := symbolInputs (k + 2) b ++ rest }
          = exec (.ingest b) { s with inputs := symbolInputs (k + 1) b ++ rest } := step_sample hne hl b _
        _ = .next (countSample b (clearOut { s with inputs := symbolInputs (k + 1) b ++ rest })) :=
            ingest_of_not_last (s := { s with inputs := symbolInputs (k + 1) b ++ rest }) hst (by simp; omega) b
        _ = .next { countSample b (clearOut s) with inputs := symbolInputs (k + 1) b ++ rest } := rfl
        _ = _ := by rw [clearOut_eq_self hout]
    have hcnt' : (countSample b s).slCnt.toNat + k + 1 = s.cfg.n := by
      obtain ⟨-, hmax⟩ := hl
      rw [countSample_slCnt, BitVec.toNat_add_of_lt (by simp; omega)]
      simp; omega
    rw [runSteps_succ hstep]
    exact ih (s := countSample b s) hl hst hout (allSamplesAre_countSample hall) hcnt' hne

/-- Before the first sample of a data symbol, under a legal configuration and with no output standing. -/
def AtSymbolStart (s : State) : Prop :=
  s.cfg.Legal ∧ s.slState = slSample ∧ s.slCnt = 0#8 ∧ s.slOnes = 0#8 ∧ s.out = {}

/-- A clean data symbol delivers its bit in the step of its last sample (41_bitslicer.md R105). -/
theorem runSteps_symbol (hs : AtSymbolStart s) (b : Bit) (rest : List HostInput) :
    runSteps s.cfg.n { s with inputs := symbolInputs s.cfg.n b ++ rest } = deliverBit b { s with inputs := rest } := by
  obtain ⟨hl, hst, hc, ho, hout⟩ := hs
  obtain ⟨hmin, -⟩ := id hl
  obtain ⟨k, hk⟩ : ∃ k, s.cfg.n = k + 1 := Nat.exists_eq_add_one.mpr hmin
  calc runSteps s.cfg.n { s with inputs := symbolInputs s.cfg.n b ++ rest }
      = exec (.ingest b) (beforeLast b { s with inputs := rest }) := by
        rw [hk]
        exact runSteps_toLast hl (.inr hst) hout (by simp [AllSamplesAre, hc, ho]) (by simp [hc, hk])
    _ = deliverBit (majority (onesWith b (beforeLast b { s with inputs := rest })) s.cfg.n)
          (setSlicer s.slState 0#8 0#8 (clearOut { s with inputs := rest })) :=
        ingest_sampleDecide (s := beforeLast b { s with inputs := rest }) hst (beforeLast_slCnt_toNat hl b) b
    _ = deliverBit b { s with inputs := rest } := by
        rw [onesWith_beforeLast (s := { s with inputs := rest }) hl b, majority_of_clean hmin b]
        simp only [setSlicer, clearOut, hc, ho, hout]

/-- The last sample of a clean start symbol confirms it, for none of its samples is a 1 (41_bitslicer.md R103). -/
theorem ingest_confirms (hl : s.cfg.Legal) (hst : s.slState = slConfirm) (hout : s.out = {}) :
    exec (.ingest 0#1) (beforeLast 0#1 s) = .next (startSampling s) := by
  obtain ⟨hmin, -⟩ := id hl
  obtain ⟨-, hok, -⟩ := sampleInConfirm (beforeLast 0#1 s) 0#1 hst
  have hones : 2 * onesWith 0#1 (beforeLast 0#1 s) < s.cfg.n := by
    rw [onesWith_beforeLast hl]
    simp; omega
  refine (hok (beforeLast_slCnt_toNat hl 0#1) hones).trans ?_
  simp only [startSampling, hout]
  rfl

/-- From SEARCH, a clean start symbol is confirmed in the step of its last sample (41_bitslicer.md R102, R103,
R108). -/
theorem runSteps_startSymbol (hl : s.cfg.Legal) (hst : s.slState = slSearch) (rest : List HostInput) :
    runSteps s.cfg.n { s with inputs := symbolInputs s.cfg.n 0#1 ++ rest } =
      .next (startSampling (clearOut { s with inputs := rest })) := by
  obtain ⟨hmin, -⟩ := id hl
  have hfirst : ∀ k, step { s with inputs := symbolInputs (k + 1) 0#1 ++ rest } =
      exec (.ingest 0#1) { s with inputs := symbolInputs k 0#1 ++ rest } := fun k =>
    step_sample (by rw [hst]; decide) hl 0#1 _
  by_cases hn : s.cfg.n = 1
  · obtain ⟨-, -, hstart⟩ := sampleInSearch { s with inputs := rest } 0#1 hst
    rw [hn, runSteps_one, hfirst 0]
    exact hstart rfl hn
  · obtain ⟨k, hk⟩ : ∃ k, s.cfg.n = k + 2 := ⟨s.cfg.n - 2, by omega⟩
    obtain ⟨-, hstart, -⟩ := sampleInSearch { s with inputs := symbolInputs (k + 1) 0#1 ++ rest } 0#1 hst
    rw [hk, runSteps_succ ((hfirst (k + 1)).trans (hstart rfl hn))]
    refine (runSteps_toLast (s := setSlicer slConfirm 1#8 0#8 (clearOut s)) hl (.inl rfl) rfl
      (by simp [AllSamplesAre]) (by simp; omega)).trans ?_
    exact ingest_confirms (s := setSlicer slConfirm 1#8 0#8 (clearOut { s with inputs := rest })) hl rfl rfl

/-! The data bits of a byte-frame. -/

/-- Data bits pushed one after another (42_byte_assembler.md R113). -/
def pushBits (bs : List Bit) (s : State) : State := bs.foldl (fun u b => pushBit b u) s

/-- The clean symbols of the first nine data bits, or of some of them, push their bits. -/
theorem runSteps_dataBits {bs : List Bit} (hs : AtSymbolStart s) (hn : s.baN.toNat + bs.length ≤ 9)
    (rest : List HostInput) :
    runSteps (bs.length * s.cfg.n) { s with inputs := (bs.map (symbolInputs s.cfg.n)).flatten ++ rest } =
      .next { pushBits bs s with inputs := rest } := by
  induction bs generalizing s with
  | nil => rw [List.length_nil, Nat.zero_mul]; rfl
  | cons b bs ih =>
    rw [List.length_cons] at hn
    have hsymbol : runSteps s.cfg.n { s with inputs := ((b :: bs).map (symbolInputs s.cfg.n)).flatten ++ rest } =
        .next (pushBit b { s with inputs := (bs.map (symbolInputs s.cfg.n)).flatten ++ rest }) := by
      rw [List.map_cons, List.flatten_cons, List.append_assoc, runSteps_symbol hs,
        deliverBit_of_baN_le_eight (by simp; omega)]
      rfl
    have hn' : (pushBit b s).baN.toNat + bs.length ≤ 9 := by
      rw [pushBit_baN, BitVec.toNat_add_of_lt (by simp; omega)]
      simp; omega
    rw [List.length_cons, Nat.succ_mul, Nat.add_comm, runSteps_add hsymbol]
    exact ih (s := pushBit b s) hs hn'

/-- The `k` low bits of a word of ten data bits, least significant first. -/
def lowBits (w : BitVec 10) (k : Nat) : List Bit := (List.range k).map fun i => w.extractLsb' i 1

/-- The data bits of a byte-frame are those of the word `{t, p, v}` (30_encoding.md R67). -/
theorem dataBits_eq_lowBits (v : Byte) (p t : Bit) : dataBitsOf v ++ [p, t] = lowBits (t ++ p ++ v) 10 := by
  obtain ⟨hv, hp, ht⟩ := split_append t p v
  generalize t ++ p ++ v = w at hv hp ht
  subst hv hp ht
  have hpayload : dataBitsOf (payloadOf w) = lowBits w 8 := by
    refine List.map_congr_left fun i hi => BitVec.eq_of_getLsbD_eq fun j hj => ?_
    have := List.mem_range.mp hi
    simp [payloadOf, hj]
    omega
  rw [hpayload]
  rfl

/-- Writing bit `k` of `w` above the `k` bits below it gives one bit more of `w`. -/
theorem setBit_lowBits (w : BitVec 10) {k : Nat} (hk : k < 10) :
    setBit ((w.setWidth k).setWidth 10) k (w.extractLsb' k 1) = (w.setWidth (k + 1)).setWidth 10 := by
  apply BitVec.eq_of_getLsbD_eq
  intro i hi
  rw [setBit_getLsbD i hi]
  split_ifs with h
  · simp [h, hk]
  · have hlt : i < k + 1 ↔ i < k := by omega
    simp [hi, hlt]

/-- An empty assembler holds the bits of `w` that were pushed, least significant first (42_byte_assembler.md R113). -/
theorem pushBits_lowBits (hn : s.baN = 0#4) (hb : s.baBits = 0#10) (w : BitVec 10) {k : Nat} (hk : k ≤ 10) :
    pushBits (lowBits w k) s = { s with baN := BitVec.ofNat 4 k, baBits := (w.setWidth k).setWidth 10 } := by
  induction k with
  | zero =>
    have hzero : (w.setWidth 0).setWidth 10 = s.baBits := by
      rw [hb, BitVec.of_length_zero (x := w.setWidth 0)]
      rfl
    rw [hzero, ← hn]
    rfl
  | succ k ih =>
    have hbn : (BitVec.ofNat 4 k).toNat = k := by
      rw [BitVec.toNat_ofNat, Nat.mod_eq_of_lt (by omega)]
    calc pushBits (lowBits w (k + 1)) s = pushBit (w.extractLsb' k 1) (pushBits (lowBits w k) s) := by
          simp [pushBits, lowBits, List.range_succ]
      _ = _ := by
        rw [ih (by omega), pushBit]
        simp only [hbn, setBit_lowBits w hk]
        rw [BitVec.ofNat_add]

/-- The tenth bit of `w`, delivered above the nine bits below it, chooses the completion row of `w`. -/
theorem deliverBit_tenth (w : BitVec 10) (s : State) :
    deliverBit (w.extractLsb' 9 1) { s with baN := 9#4, baBits := (w.setWidth 9).setWidth 10 } =
      exec ((completionRow w).instr w) { s with baN := 10#4, baBits := w } := by
  have hw : setBit ((w.setWidth 9).setWidth 10) 9 (w.extractLsb' 9 1) = w :=
    (setBit_lowBits w (by decide)).trans (by simp)
  rw [deliverBit_of_baN_eq_nine (by rfl), baComplete_eq_exec]
  simp only [pushBit, BitVec.reduceToNat, BitVec.reduceAdd, hw]

/-- With an empty assembler, the ten clean symbols of `w` end in its completion row. -/
theorem runSteps_tenBits (hs : AtSymbolStart s) (hbn : s.baN = 0#4) (hbb : s.baBits = 0#10) (w : BitVec 10)
    (rest : List HostInput) :
    runSteps (10 * s.cfg.n) { s with inputs := ((lowBits w 10).map (symbolInputs s.cfg.n)).flatten ++ rest } =
      exec ((completionRow w).instr w) { s with baN := 10#4, baBits := w, inputs := rest } := by
  have hlen : (lowBits w 9).length = 9 := rfl
  have hinputs : ((lowBits w 10).map (symbolInputs s.cfg.n)).flatten ++ rest =
      ((lowBits w 9).map (symbolInputs s.cfg.n)).flatten ++ (symbolInputs s.cfg.n (w.extractLsb' 9 1) ++ rest) := by
    simp [show lowBits w 10 = lowBits w 9 ++ [w.extractLsb' 9 1] from rfl]
  have hnine := runSteps_dataBits (bs := lowBits w 9) hs (by simp [hbn, hlen])
    (symbolInputs s.cfg.n (w.extractLsb' 9 1) ++ rest)
  rw [hlen, pushBits_lowBits hbn hbb w (by decide)] at hnine
  rw [hinputs, Nat.succ_mul, runSteps_add hnine]
  exact (runSteps_symbol (s := { s with baN := 9#4, baBits := (w.setWidth 9).setWidth 10 }) hs _ rest).trans
    (deliverBit_tenth w { s with inputs := rest })

/-- What the host presents for a byte-frame: the start symbol, then the ten data bits (30_encoding.md R67, R87). -/
theorem map_byteFrameWith (n : Nat) (v : Byte) (p t : Bit) :
    (byteFrameWith n v p t).map (fun w => ({ op := w } : HostInput)) =
      symbolInputs n 0#1 ++ ((lowBits (t ++ p ++ v) 10).map (symbolInputs n)).flatten := by
  rw [byteFrameWith, dataBits_eq_lowBits, List.map_append, map_symbol, List.map_flatten, List.map_map]
  simp only [Function.comp_def, map_symbol]

/-- Settles O52: the start symbol, and the ten data bits from SAMPLE with an empty assembler. -/
theorem byteFrameIsReadInElevenNSamples : Obligations.ByteFrameIsReadInElevenNSamples := by
  intro s v p t rest hl hst hc ho _ _
  rw [map_byteFrameWith, List.append_assoc, show 11 * s.cfg.n = s.cfg.n + 10 * s.cfg.n by omega,
    runSteps_add (runSteps_startSymbol hl hst _), hc, ho]
  exact runSteps_tenBits (s := startSampling (clearOut s)) ⟨hl, rfl, rfl, rfl, rfl⟩ rfl rfl (t ++ p ++ v) rest

end Sys2Proof.Machine
end

section
/-! PROOFS of 42_byte_assembler.md: the write of a data bit (R113), the split of the tenth bit and the order of its two
checks (R114, R117), the two framing failures (R115, R116), the delivered byte (R118, R119) and the acceptance law
(R120). -/

namespace Sys2Proof.Machine

variable {s : State}

/-! The bit write. -/

theorem bit_getLsbD_zero (b : Bit) : b.getLsbD 0 = decide (b = 1#1) := by revert b; decide

/-- Settles O23: BA_PUSH writes `setBit`, and BA_COMPLETE runs the row `setBit`'s ten bits choose. -/
theorem dataBitIsAccumulated : Obligations.DataBitIsAccumulated := by
  intro s b hn
  refine ⟨setBit s.baBits s.baN.toNat b, fun i hi => ?_, setBit_toNat (by omega), fun _ => rfl,
    fun _ => baComplete_eq_exec b s⟩
  rw [setBit_getLsbD i hi, bit_getLsbD_zero]

/-- Above the nine bits `{p, d}` the tenth bit `t` gives the word `{t, p, d}`. -/
theorem setBit_nine {bits : BitVec 10} {p : Bit} {d : Byte} (h : bits.setWidth 9 = p ++ d) (t : Bit) :
    setBit bits 9 t = t ++ p ++ d := by
  apply BitVec.eq_of_getLsbD_eq
  intro i hi
  have happend : (t ++ (p ++ d)).getLsbD i = if i < 9 then (p ++ d).getLsbD i else t.getLsbD (i - 9) :=
    BitVec.getLsbD_append
  rw [setBit_getLsbD i hi, BitVec.append_assoc]
  refine Eq.trans ?_ happend.symm
  obtain hlt | rfl := Nat.lt_or_eq_of_le (Nat.le_of_lt_succ hi)
  · rw [if_neg hlt.ne, if_pos hlt, ← h]
    simp [hlt]
  · rfl

theorem pushBit_tenth {p : Bit} {d : Byte} (hn : s.baN.toNat = 9) (h : s.baBits.setWidth 9 = p ++ d) (t : Bit) :
    pushBit t s = { s with baBits := t ++ p ++ d, baN := 10#4 } := by
  have hbn : s.baN = 9#4 := BitVec.eq_of_toNat_eq hn
  rw [pushBit, hn, setBit_nine h, hbn]
  rfl

/-! The completion row. -/

/-- The completion row of the word `{t, p, d}`: the stop bit first, then the parity (42_byte_assembler.md R117). -/
theorem completionRow_instr_append (t p : Bit) (d : Byte) :
    (completionRow (t ++ p ++ d)).instr (t ++ p ++ d) =
      if t = 0#1 then .baFailStop p d
      else if (popcount d + p.toNat) % 2 = 1 then .baFailParity p d
      else .baOk p d := by
  obtain ⟨hd, hp, -⟩ := split_append t p d
  simp only [completionRow_append, parityOdd, decide_eq_true_eq]
  split_ifs <;> simp only [CompletionRow.instr, hd, hp]

/-- Settles O24: the tenth bit is written above the nine, and the row of the ten bits runs. -/
theorem tenthBitChecksStopThenParity : Obligations.TenthBitChecksStopThenParity := by
  intro s t p d hn h
  rw [baComplete_eq_exec, pushBit_tenth hn h, completionRow_instr_append]

/-- Every completion row writes the assembler registers without reading them, so the tenth bit's own write does not
show. -/
theorem exec_completionRow_pushBit (r : CompletionRow) (bits : BitVec 10) (b : Bit) (s : State) :
    exec (r.instr bits) (pushBit b s) = exec (r.instr bits) s := by
  cases r <;> rfl

/-- The tenth bit `t` above `{p, d}` is the row of the stop bit and the parity, run from the state before it. -/
theorem baComplete_tenth {p : Bit} {d : Byte} (hn : s.baN.toNat = 9) (h : s.baBits.setWidth 9 = p ++ d) (t : Bit) :
    exec (.baComplete t) s =
      exec (if t = 0#1 then .baFailStop p d
            else if (popcount d + p.toNat) % 2 = 1 then .baFailParity p d
            else .baOk p d) s := by
  rw [baComplete_eq_exec, exec_completionRow_pushBit, pushBit_baBits, hn, setBit_nine h, completionRow_instr_append]

/-! The framing failures. -/

theorem baFailStop_eq (p : Bit) (d : Byte) (s : State) :
    exec (.baFailStop p d) s = .next (failedWith ⟨1#2, 1#4, 1#8, 0#8, nextPos s⟩ s) :=
  congrArg Host.Outcome.next (raise_framing _ (c := .wrongStopBit) rfl ..)

/-- Settles O26: a tenth bit of 0 chooses BA_FAIL_STOP whatever the nine bits below it are. -/
theorem wrongStopBitResets : Obligations.WrongStopBitResets := by
  rintro s p d _ rfl
  refine ⟨baFailStop_eq p d s, fun hn => ?_⟩
  have hrow : completionRow (setBit s.baBits 9 0#1) = .failStop := by
    obtain ⟨hstop, -, -⟩ := completionRow_iff (setBit s.baBits 9 0#1)
    exact hstop.mpr (setBit_getLsbD 9 (by decide))
  rw [baComplete_eq_exec, exec_completionRow_pushBit, pushBit_baBits, hn, hrow]
  exact baFailStop_eq _ _ s

theorem bitAsByte_eq_ofNat (b : Bit) : bitAsByte b = BitVec.ofNat 8 b.toNat := (BitVec.ofNat_toNat 8 b).symm

theorem baFailParity_eq (p : Bit) (d : Byte) (s : State) :
    exec (.baFailParity p d) s = .next
      (failedWith ⟨1#2, 2#4, BitVec.ofNat 8 (popcount d % 2), BitVec.ofNat 8 p.toNat, nextPos s⟩ s) := by
  rw [← parityBit_toNat, ← bitAsByte_eq_ofNat, ← bitAsByte_eq_ofNat]
  exact congrArg Host.Outcome.next (raise_framing _ (c := .wrongParity) rfl ..)

/-- Settles O27: a tenth bit of 1 above nine bits of odd parity chooses BA_FAIL_PARITY. -/
theorem wrongParityResets : Obligations.WrongParityResets := by
  rintro s p d _ rfl
  refine ⟨baFailParity_eq p d s, fun hn h hodd => ?_⟩
  rw [baComplete_tenth hn h, if_neg (by decide), if_pos hodd]
  exact baFailParity_eq p d s

/-! The delivered byte. -/

/-- The framer and the interpreter leave OUT_BYTE as the assembler wrote it. -/
theorem acceptByte_keeps_outByte {v : Byte} {u : State} (h : acceptByte v s = .next u) :
    u.out.byte = s.out.byte := by
  obtain ⟨-, rfl | ⟨g, rfl, -⟩ | ⟨-, -, h⟩⟩ := acceptByte_cases h
  · rfl
  · rfl
  · obtain ⟨o, ho, hbyte, -⟩ := interpret_next (buildTelegram (appended v s)) (stopped v s)
    rw [ho] at h
    cases h
    exact hbyte

/-- At a position a rule names, with room for the byte, BA_OK delivers it and ends the byte-frame. -/
theorem baOk_delivers (hroom : s.frBuf.length < 261)
    (hrow : framerRow (s.frPos.toNat + 1) (lengthByte s) ≠ none) (p : Bit) (d : Byte) :
    ∃ u, exec (.baOk p d) s = .next u ∧ u.out.byte = some d ∧ ByteFrameEnded s u := by
  obtain ⟨u, hu⟩ := acceptByte_completes (s := framed d s) (v := d) hroom hrow
  exact ⟨u, hu, acceptByte_keeps_outByte hu, acceptByte_framed_ends hu⟩

/-- Settles O28: the byte is on OUT_BYTE when the framer takes it, and the framer refuses only its position. -/
theorem verifiedByteIsDelivered : Obligations.VerifiedByteIsDelivered := by
  refine fun s p d => ⟨fun hroom hrow => ?_, fun hnone => acceptByte_of_noRow (s := framed d s) hnone⟩
  obtain ⟨u, hu, hbyte, hstate, hbn, hbits, hcfg, hinputs, -⟩ := baOk_delivers hroom hrow p d
  exact ⟨u, hu, hbyte, hstate, hbn, hbits, hcfg, hinputs⟩

/-! The acceptance law. -/

/-- A tenth bit that is not accepted is one FramingError, WRONG_STOP_BIT where the stop bit is 0 and WRONG_PARITY where
it is not. -/
theorem baComplete_fails {t p : Bit} {d : Byte} (hn : s.baN.toNat = 9) (h : s.baBits.setWidth 9 = p ++ d)
    (hfail : ¬ (t = 1#1 ∧ (popcount d + p.toNat) % 2 = 0)) :
    ∃ g, exec (.baComplete t) s = .next (failedWith g s) ∧ g.kind = 1#2 ∧
      g.code = if t = 0#1 then 1#4 else 2#4 := by
  rw [baComplete_tenth hn h]
  rcases bit_cases t with rfl | rfl
  · exact ⟨_, baFailStop_eq p d s, rfl, rfl⟩
  · have hodd : (popcount d + p.toNat) % 2 = 1 := Nat.mod_two_ne_zero.mp fun heven => hfail ⟨rfl, heven⟩
    rw [if_neg (by decide), if_pos hodd]
    exact ⟨_, baFailParity_eq p d s, rfl, rfl⟩

/-- Settles O25: an accepted tenth bit is BA_OK, which delivers the byte, and any other is a FramingError, which leaves
OUT_BYTE and OUT_TG as they were. -/
theorem byteIsAcceptedExactlyOnStopAndParity : Obligations.ByteIsAcceptedExactlyOnStopAndParity := by
  intro s t p d hn h hout hroom hrow
  by_cases hok : t = 1#1 ∧ (popcount d + p.toNat) % 2 = 0
  · obtain ⟨u, hu, hbyte, -⟩ := baOk_delivers hroom hrow p d
    refine ⟨u, ?_, iff_of_true hbyte hok, fun hfail => absurd hok hfail⟩
    obtain ⟨rfl, heven⟩ := hok
    rw [baComplete_tenth hn h, if_neg (by decide), if_neg (by omega), hu]
  · obtain ⟨g, hg, hkind, hcode⟩ := baComplete_fails hn h hok
    have hbyte : (failedWith g s).out.byte = none := congrArg Outputs.byte hout
    have htg : (failedWith g s).out.tg = none := congrArg Outputs.tg hout
    exact ⟨failedWith g s, hg, iff_of_false (by simp [hbyte]) hok, fun _ => ⟨hbyte, htg, g, rfl, hkind, hcode⟩⟩

end Sys2Proof.Machine
end

section
/-! PROOFS of 43_telegram_framer.md: what each row does with its byte (R121 to R129), the record FR_STOP builds
(R130, R131), and the round trip of a telegram (R134). -/

namespace Sys2Proof.Machine

variable {s : State}

/-! The rows that only append, and those that compare the byte with a fixed value. -/

/-- A FrameGrammarError after the append leaves no trace of it: the buffer is cleared (43_telegram_framer.md R132). -/
theorem raise_frameGrammar_appended {c : Cause} (h : causeKind c = .frameGrammar) (e a : Byte) (p : BitVec 9)
    (v : Byte) (s : State) : raise c e a p (appended v s) = failedWith (diagOf c e a p) s := by
  rw [raise_frameGrammar _ h, failedWith_appended]

/-- A row that appends `v` and wants it to be the start character (43_telegram_framer.md R122, R126). -/
theorem accepted_startChar {c : Cause} (h : causeKind c = .frameGrammar) (hroom : s.frBuf.length < 261) (v : Byte)
    (p : BitVec 9) :
    accepted v s (fun u =>
        if v = Config.startChar then .next u else .next (raise c Config.startChar v p u)) =
      .next (if v = Config.startChar then appended v s else failedWith (diagOf c Config.startChar v p) s) := by
  rw [accepted_of_room s hroom, raise_frameGrammar_appended h, ← apply_ite]

theorem frP1_eq (hroom : s.frBuf.length < 261) (v : Byte) :
    exec (.frP1 v) s = .next
      (if v = 0x68#8 then appended v s else failedWith ⟨2#2, 1#4, 0x68#8, v, 1#9⟩ s) :=
  accepted_startChar (c := .wrongStart) rfl hroom v 1#9

theorem frP4_eq (hroom : s.frBuf.length < 261) (v : Byte) :
    exec (.frP4 v) s = .next
      (if v = 0x68#8 then appended v s else failedWith ⟨2#2, 4#4, 0x68#8, v, 4#9⟩ s) :=
  accepted_startChar (c := .wrongRepeatStart) rfl hroom v 4#9

theorem frP2_eq (hroom : s.frBuf.length < 261) (v : Byte) : exec (.frP2 v) s = .next (appended v s) :=
  accepted_of_room s hroom

theorem frBody_eq (hroom : s.frBuf.length < 261) (v : Byte) : exec (.frBody v) s = .next (appended v s) :=
  accepted_of_room s hroom

/-- Settles O29: both rows compare the byte with 0x68, and the diagnostics are those of their causes. -/
theorem startCharactersAreChecked : Obligations.StartCharactersAreChecked := by
  intro s v hroom
  rw [frP1_eq hroom, frP4_eq hroom]
  exact ⟨fun h => ⟨by rw [if_pos h], by rw [if_pos h]⟩, fun h => ⟨by rw [if_neg h], by rw [if_neg h]⟩⟩

/-- Settles O30: neither row has a check, and the byte appended after position 1 is FR_BUF[1]. -/
theorem lengthAndCountedBytesAccumulate : Obligations.LengthAndCountedBytesAccumulate := by
  refine fun s v hroom => ⟨frP2_eq hroom v, fun h1 => ?_, frBody_eq hroom v⟩
  have hlast : memRead 1 (appended v s) = v := h1 ▸ memRead_appended_last s
  exact congrArg BitVec.toNat hlast

/-! The length bytes. -/

/-- With two bytes held, position 3 compares its byte with the length byte, then the length with 3. -/
theorem frP3_eq (h : s.frBuf.length = 2) (v : Byte) :
    exec (.frP3 v) s = .next
      (if memRead 1 s ≠ v then failedWith ⟨2#2, 2#4, memRead 1 s, v, 3#9⟩ s
       else if lengthByte s < 3 then failedWith ⟨2#2, 3#4, 3#8, memRead 1 s, 3#9⟩ s
       else appended v s) := by
  have hL : memRead 1 (appended v s) = memRead 1 s := memRead_appended_of_lt s (by omega)
  have hv : memRead 2 (appended v s) = v := h ▸ memRead_appended_last s
  refine (accepted_of_room s (by omega)).trans ?_
  rw [raise_frameGrammar_appended rfl, raise_frameGrammar_appended rfl, lengthByte_appended s (by omega), hL, hv,
    ← apply_ite, ← apply_ite]
  rfl

/-- Settles O31: the length byte is the second of the two bytes held. -/
theorem redundantLengthIsChecked : Obligations.RedundantLengthIsChecked := by
  intro s b0 l v h
  have hl : memRead 1 s = l := by simp [memRead, h]
  rw [frP3_eq (by simp [h]), lengthByte, hl]
  refine ⟨fun hne => by rw [if_pos hne], fun heq hlt => ?_, fun heq hle => ?_⟩
  · rw [if_neg (not_not.mpr heq), if_pos hlt]
  · rw [if_neg (not_not.mpr heq), if_neg (not_lt.mpr hle)]

/-! The parts of the buffer. -/

/-- The bytes between two parts of the buffer are the range that starts after the first. -/
theorem memRange_of_append {before mid after : List Byte} (h : s.frBuf = before ++ mid ++ after) :
    memRange before.length mid.length s = mid := by
  rw [memRange_eq_take_drop s (by simp [h]), h]
  simp

theorem memRead_of_append {before after : List Byte} {v : Byte} (h : s.frBuf = before ++ v :: after) :
    memRead before.length s = v := by
  simp [memRead, h]

theorem lengthByte_of_cons {b0 l : Byte} {rest : List Byte} (h : s.frBuf = b0 :: l :: rest) :
    lengthByte s = l.toNat :=
  congrArg BitVec.toNat (memRead_of_append (before := [b0]) h)

/-! The checksum. -/

/-- With the L counted bytes in the buffer, the checksum is their sum (43_telegram_framer.md R128). -/
theorem checksum_eq_sumMod256 {b0 l l' b3 : Byte} {counted : List Byte}
    (h : s.frBuf = [b0, l, l', b3] ++ counted) (hlen : counted.length = l.toNat) :
    checksum s = sumMod256 counted := by
  have hL : lengthByte s = counted.length := (lengthByte_of_cons h).trans hlen.symm
  have hrange : memRange 4 counted.length s = counted :=
    memRange_of_append (before := [b0, l, l', b3]) (after := []) (by simp [h])
  rw [checksum, hL, hrange]

/-- FR_CSUM in the buffer of the L counted bytes. -/
theorem frCsum_of_counted {b0 l l' b3 : Byte} {counted : List Byte}
    (h : s.frBuf = [b0, l, l', b3] ++ counted) (hlen : counted.length = l.toNat) (v : Byte) :
    exec (.frCsum v) s = .next
      (if v = sumMod256 counted then appended v s
       else failedWith ⟨2#2, 5#4, sumMod256 counted, v, BitVec.ofNat 9 (5 + l.toNat)⟩ s) := by
  have hL : lengthByte s = l.toNat := lengthByte_of_cons h
  have hbuf : s.frBuf.length = 4 + l.toNat := by simp [h, hlen]; omega
  have := l.isLt
  refine (accepted_of_room s (by omega)).trans ?_
  rw [raise_frameGrammar_appended rfl, checksum_appended s (by omega) (by omega), checksum_eq_sumMod256 h hlen,
    lengthByte_appended s (by omega), hL, ← apply_ite]
  rfl

theorem eq_sumMod256_iff {v : Byte} {bs : List Byte} :
    v = sumMod256 bs ↔ v.toNat = (bs.map BitVec.toNat).sum % 256 := by
  rw [← BitVec.toNat_inj, sumMod256, BitVec.toNat_ofNat]

/-- Settles O32: the checksum of the buffer is the sum of the counted bytes, and a byte is that sum exactly when their
values agree mod 256. -/
theorem checksumIsTheSumOfTheCountedBytes : Obligations.ChecksumIsTheSumOfTheCountedBytes := by
  intro s b0 l l' b3 v counted h hlen
  rw [frCsum_of_counted h hlen, ne_eq, ← eq_sumMod256_iff]
  exact ⟨fun hv => by rw [if_pos hv], fun hv => by rw [if_neg hv]; rfl⟩

/-! The stop character. -/

/-- The record of a buffer that begins with a telegram up to its checksum (43_telegram_framer.md R130). -/
theorem buildTelegram_of_append {b0 l l' b3 b4 a1 a2 cs : Byte} {payload after : List Byte}
    (h : s.frBuf = [b0, l, l', b3, b4, a1, a2] ++ payload ++ cs :: after) (hlen : payload.length + 3 = l.toNat) :
    buildTelegram s = ⟨b4.extractLsb' 4 4, a1, a2, payload, cs⟩ := by
  have hL : lengthByte s = payload.length + 3 := (lengthByte_of_cons h).trans hlen.symm
  have hpayload : memRange 7 payload.length s = payload := memRange_of_append (before := [b0, l, l', b3, b4, a1, a2]) h
  have hcs : memRead (payload.length + 7) s = cs := by
    simpa using memRead_of_append (before := [b0, l, l', b3, b4, a1, a2] ++ payload) h
  have h4 : memRead 4 s = b4 := by simp [memRead, h]
  have h5 : memRead 5 s = a1 := by simp [memRead, h]
  have h6 : memRead 6 s = a2 := by simp [memRead, h]
  rw [buildTelegram, hL, Nat.add_sub_cancel, show 4 + (payload.length + 3) = payload.length + 7 by omega, hpayload,
    hcs, h4, h5, h6, sequenceOf]

/-- The state that a completed telegram `g` is interpreted in: the framer cleared, `g` on OUT_TG
(43_telegram_framer.md R131). -/
def completed (g : Generic) (s : State) : State :=
  { s with frPos := 0#9, frBuf := [], out := { s.out with tg := some g } }

/-- FR_STOP in the buffer of a whole telegram but its stop character. -/
theorem frStop_of_telegram {b0 l l' b3 b4 a1 a2 cs : Byte} {payload : List Byte} {g : Generic}
    (h : s.frBuf = [b0, l, l', b3, b4, a1, a2] ++ payload ++ [cs]) (hlen : payload.length + 3 = l.toNat)
    (hg : g = ⟨b4.extractLsb' 4 4, a1, a2, payload, cs⟩) (v : Byte) :
    exec (.frStop v) s =
      if v = 0x16#8 then interpret g (completed g s)
      else .next (failedWith ⟨2#2, 6#4, 0x16#8, v, BitVec.ofNat 9 (6 + l.toNat)⟩ s) := by
  have happ : (appended v s).frBuf = [b0, l, l', b3, b4, a1, a2] ++ payload ++ cs :: [v] := by simp [h]
  have hL : lengthByte (appended v s) = l.toNat := lengthByte_of_cons happ
  have hroom : s.frBuf.length < 261 := by
    have := l.isLt
    simp [h]
    omega
  refine (accepted_of_room s hroom).trans ?_
  rw [raise_frameGrammar_appended rfl, buildTelegram_of_append happ hlen, ← hg, hL]
  rfl

/-- What the interpreter leaves of a state that a telegram was completed in: LOG has its record, and only the record
and the diagnostic among the outputs may have changed (44_interpreter.md R145). -/
theorem interpret_completed (g : Generic) (s : State) :
    ∃ o, interpret g (completed g s) =
        .next { completed g s with log := s.log ++ (recordOf s.cfg g).toList, out := o } ∧
      o.byte = s.out.byte ∧ o.tg = some g := by
  obtain ⟨o, ho, hbyte, htg, -⟩ := interpret_next g (completed g s)
  exact ⟨o, ho, hbyte, htg⟩

/-- Settles O33: the buffer gives the record, and the interpreter always answers a next state. -/
theorem stopCharacterCompletesTheTelegram : Obligations.StopCharacterCompletesTheTelegram := by
  intro s b0 l l' b3 b4 a1 a2 cs v payload g h hlen hg
  rw [frStop_of_telegram h hlen hg]
  refine ⟨fun hv => ?_, fun hv => if_neg hv⟩
  rw [if_pos hv]
  obtain ⟨o, ho, hbyte, htg⟩ := interpret_completed g s
  exact ⟨interpret_eq_exec g _, _, ho, htg, rfl, rfl, rfl, rfl, rfl, rfl, rfl, rfl, rfl, rfl, hbyte⟩

/-! The round trip: a telegram's bytes one after another, each in a step of its own. -/

/-- The state between two bytes of a telegram: byte-frame over, the bytes `bs` in the buffer, the last of them
on OUT_BYTE. -/
def holding (bs : List Byte) (s : State) : State :=
  { s with slState := slSearch, baN := 0#4, baBits := 0#10, frPos := BitVec.ofNat 9 bs.length, frBuf := bs,
           out := { byte := bs.getLast? } }

/-- What the framer sees of the next byte `v` of a telegram. -/
def arriving (v : Byte) (bs : List Byte) (s : State) : State := framed v (clearOut (holding bs s))

@[simp] theorem arriving_frBuf (v : Byte) (bs : List Byte) : (arriving v bs s).frBuf = bs := rfl

theorem appended_arriving (v : Byte) (bs : List Byte) (s : State) :
    appended v (arriving v bs s) = holding (bs ++ [v]) s := by
  simp [appended, arriving, holding, framed, emitByte, endByteFrame, clearOut, BitVec.ofNat_add]

theorem acceptByte_arriving {bs : List Byte} {r : FramerRow} (hlen : bs.length < 261) (v : Byte)
    (hrow : framerRow (bs.length + 1) (lengthByte (arriving v bs s)) = some r) :
    acceptByte v (arriving v bs s) = exec (r.instr v) (arriving v bs s) := by
  refine acceptByte_eq_exec ?_ v
  have hpos : (arriving v bs s).frPos.toNat = bs.length :=
    (BitVec.toNat_ofNat _ _).trans (Nat.mod_eq_of_lt (by omega))
  rw [hpos, hrow]

theorem deliverBytes_cons_of_next {v : Byte} {t : State} (h : acceptByte v (framed v (clearOut s)) = .next t)
    (vs : List Byte) : deliverBytes (v :: vs) s = deliverBytes vs t := by
  have hexec : exec (.baOk (parityBit v) v) (clearOut s) = .next t := h
  simp only [deliverBytes, hexec]

/-- The last byte is the outcome of its step. -/
theorem deliverBytes_singleton (v : Byte) (s : State) :
    deliverBytes [v] s = acceptByte v (framed v (clearOut s)) := by
  change _ = exec (.baOk (parityBit v) v) (clearOut s)
  simp only [deliverBytes]
  cases exec (.baOk (parityBit v) v) (clearOut s) <;> rfl

/-- A byte whose row appends it leaves the rest to be delivered with one byte more in the buffer. -/
theorem deliverBytes_holding_cons {bs : List Byte} {v : Byte} {r : FramerRow} (hlen : bs.length < 261)
    (hrow : framerRow (bs.length + 1) (lengthByte (arriving v bs s)) = some r)
    (hpass : exec (r.instr v) (arriving v bs s) = .next (appended v (arriving v bs s))) (vs : List Byte) :
    deliverBytes (v :: vs) (holding bs s) = deliverBytes vs (holding (bs ++ [v]) s) := by
  refine deliverBytes_cons_of_next ?_ vs
  rw [← appended_arriving, ← hpass]
  exact acceptByte_arriving hlen v hrow

/-- With an empty framer, the first byte finds the same state as between two bytes. -/
theorem deliverBytes_cons_of_empty (hp : s.frPos = 0#9) (hb : s.frBuf = []) (v : Byte) (vs : List Byte) :
    deliverBytes (v :: vs) s = deliverBytes (v :: vs) (holding [] s) := by
  have h : framed v (clearOut s) = framed v (clearOut (holding [] s)) := by
    simp [holding, framed, emitByte, endByteFrame, clearOut, hp, hb]
  have hexec : exec (.baOk (parityBit v) v) (clearOut s) =
      exec (.baOk (parityBit v) v) (clearOut (holding [] s)) := congrArg (acceptByte v) h
  simp only [deliverBytes, hexec]

/-- The four opening bytes pass their checks when L is at least 3 (43_telegram_framer.md R122 to R126). -/
theorem deliverBytes_opening {l : Byte} (hl : 3 ≤ l.toNat) (vs : List Byte) (s : State) :
    deliverBytes ([0x68#8, l, l, 0x68#8] ++ vs) (holding [] s) =
      deliverBytes vs (holding [0x68#8, l, l, 0x68#8] s) := by
  have h1 := deliverBytes_holding_cons (s := s) (bs := []) (v := 0x68#8) (r := .p1) (by simp) rfl
    (frP1_eq (by simp) _)
  have h2 := deliverBytes_holding_cons (s := s) (bs := [0x68#8]) (v := l) (r := .p2) (by simp) rfl
    (frP2_eq (by simp) _)
  have hpass3 : exec (.frP3 l) (arriving l [0x68#8, l] s) = .next (appended l (arriving l [0x68#8, l] s)) := by
    obtain ⟨-, -, hpass⟩ := redundantLengthIsChecked (arriving l [0x68#8, l] s) 0x68#8 l l rfl
    exact hpass rfl hl
  have h3 := deliverBytes_holding_cons (r := .p3) (by simp) rfl hpass3
  have h4 := deliverBytes_holding_cons (s := s) (bs := [0x68#8, l, l]) (v := 0x68#8) (r := .p4) (by simp) rfl
    (frP4_eq (by simp) _)
  exact (h1 _).trans ((h2 _).trans ((h3 _).trans (h4 _)))

/-- Counted bytes are appended while there are no more than L of them (43_telegram_framer.md R127). -/
theorem deliverBytes_counted {b0 l l' b3 : Byte} (bs before vs : List Byte)
    (hlen : before.length + bs.length ≤ l.toNat) :
    deliverBytes (bs ++ vs) (holding ([b0, l, l', b3] ++ before) s) =
      deliverBytes vs (holding ([b0, l, l', b3] ++ (before ++ bs)) s) := by
  induction bs generalizing before with
  | nil => simp
  | cons v bs ih =>
    have hlt := l.isLt
    have hbuf : ([b0, l, l', b3] ++ before).length = 4 + before.length := by simp; omega
    have hL : lengthByte (arriving v ([b0, l, l', b3] ++ before) s) = l.toNat := rfl
    rw [List.length_cons] at hlen
    have hrow : framerRow (([b0, l, l', b3] ++ before).length + 1)
        (lengthByte (arriving v ([b0, l, l', b3] ++ before) s)) = some .body :=
      framerRow_body (by omega) (by omega)
    have hv := deliverBytes_holding_cons (by omega) hrow (frBody_eq (by rw [arriving_frBuf]; omega) v) (bs ++ vs)
    have hrest := ih (before ++ [v]) (by simp; omega)
    calc deliverBytes (v :: bs ++ vs) (holding ([b0, l, l', b3] ++ before) s)
        = deliverBytes (bs ++ vs) (holding ([b0, l, l', b3] ++ (before ++ [v])) s) := by
          simpa using hv
      _ = _ := by simpa using hrest

/-- After the L counted bytes their sum is appended (43_telegram_framer.md R128). -/
theorem deliverBytes_checksum {b0 l l' b3 cs : Byte} {counted : List Byte} (hlen : counted.length = l.toNat)
    (hcs : cs = sumMod256 counted) (vs : List Byte) (s : State) :
    deliverBytes (cs :: vs) (holding ([b0, l, l', b3] ++ counted) s) =
      deliverBytes vs (holding ([b0, l, l', b3] ++ counted ++ [cs]) s) := by
  have hlt := l.isLt
  have hbuf : ([b0, l, l', b3] ++ counted).length + 1 = 5 + l.toNat := by simp; omega
  refine deliverBytes_holding_cons (r := .csum) (by omega) ?_ ?_ vs
  · rw [hbuf]
    exact framerRow_csum l.toNat
  · exact (frCsum_of_counted rfl hlen cs).trans (by rw [if_pos hcs])

/-- The stop character after a telegram's checksum completes it; the bytes held do not show any more
(43_telegram_framer.md R129 to R131). -/
theorem deliverBytes_stop {b0 l l' b3 b4 a1 a2 cs : Byte} {payload : List Byte} {g : Generic}
    (hlen : payload.length + 3 = l.toNat) (hg : g = ⟨b4.extractLsb' 4 4, a1, a2, payload, cs⟩) (s : State) :
    deliverBytes [0x16#8] (holding ([b0, l, l', b3, b4, a1, a2] ++ payload ++ [cs]) s) =
      interpret g (completed g (arriving 0x16#8 [] s)) := by
  have hlt := l.isLt
  have hbuf : ([b0, l, l', b3, b4, a1, a2] ++ payload ++ [cs]).length + 1 = 6 + l.toNat := by simp; omega
  rw [deliverBytes_singleton]
  refine (acceptByte_arriving (r := .stop) (by omega) _ ?_).trans ?_
  · rw [hbuf]
    exact framerRow_stop l.toNat
  · exact (frStop_of_telegram rfl hlen hg _).trans (if_pos rfl)

/-- The bytes of a telegram, delivered to an empty framer, end in the interpreter with the telegram that was encoded
(43_telegram_framer.md R134). -/
theorem deliverBytes_telegramBytes (hp : s.frPos = 0#9) (hb : s.frBuf = []) {b4 a1 a2 cs : Byte}
    {payload : List Byte} {g : Generic} (hlen : payload.length ≤ 252) (hcs : cs = sumMod256 ([b4, a1, a2] ++ payload))
    (hg : g = ⟨b4.extractLsb' 4 4, a1, a2, payload, cs⟩) :
    deliverBytes (telegramBytes b4 a1 a2 payload) s = interpret g (completed g (arriving 0x16#8 [] s)) := by
  generalize hl : BitVec.ofNat 8 (payload.length + 3) = l
  have hL : payload.length + 3 = l.toNat := by
    rw [← hl, BitVec.toNat_ofNat, Nat.mod_eq_of_lt (by omega)]
  have hcounted : ([b4, a1, a2] ++ payload).length = l.toNat := hL
  calc deliverBytes (telegramBytes b4 a1 a2 payload) s
      = deliverBytes ([0x68#8, l, l, 0x68#8] ++ (([b4, a1, a2] ++ payload) ++ [cs, 0x16#8])) (holding [] s) := by
        rw [telegramBytes, hl, ← hcs, List.append_assoc, List.append_assoc]
        exact deliverBytes_cons_of_empty hp hb _ _
    _ = deliverBytes (([b4, a1, a2] ++ payload) ++ [cs, 0x16#8]) (holding [0x68#8, l, l, 0x68#8] s) :=
        deliverBytes_opening (by omega) _ s
    _ = deliverBytes [cs, 0x16#8] (holding ([0x68#8, l, l, 0x68#8] ++ ([b4, a1, a2] ++ payload)) s) :=
        deliverBytes_counted _ [] _ (by rw [hcounted]; simp)
    _ = deliverBytes [0x16#8] (holding ([0x68#8, l, l, 0x68#8, b4, a1, a2] ++ payload ++ [cs]) s) :=
        deliverBytes_checksum hcounted hcs _ s
    _ = interpret g (completed g (arriving 0x16#8 [] s)) := deliverBytes_stop hL hg s

/-- Settles O53: the telegram reaches the interpreter as it was encoded, and the interpreter logs its record. -/
theorem telegramRoundTrip : Obligations.TelegramRoundTrip := by
  intro s b4 a1 a2 payload g hlen hp hb hg
  obtain ⟨o, ho, -, htg⟩ := interpret_completed g (arriving 0x16#8 [] s)
  exact ⟨_, (deliverBytes_telegramBytes hp hb hlen rfl hg).trans ho, htg, rfl, rfl, rfl, rfl, rfl⟩

end Sys2Proof.Machine
end

section
/-! PROOFS of 44_interpreter.md: the telegram that is logged as it is (R138), the date-time decode and its fields
(R139, R140, R142, R143), and the policy on a failed decode (R141). -/

namespace Sys2Proof.Machine

variable {s : State} {g : Generic} {p : List Byte} {p0 : Byte} {f : DecodeFailure}

/-- Settles O35: NONZERO_ADDR is one `logRecord`. -/
theorem nonzeroAddressIsLoggedAsItIs : Obligations.NonzeroAddressIsLoggedAsItIs :=
  fun _ _ => rfl

/-! The fields of a date-time record as numbers, and the payloads that decode to one. -/

theorem dateTimeOf_second (p1 p2 p3 p4 p5 p6 : Byte) :
    (dateTimeOf p1 p2 p3 p4 p5 p6).second.toNat = p1.toNat / 4 := by
  have := p1.isLt
  simp only [dateTimeOf, BitVec.extractLsb'_toNat, Nat.shiftRight_eq_div_pow]
  omega

theorem dateTimeOf_hour (p1 p2 p3 p4 p5 p6 : Byte) :
    (dateTimeOf p1 p2 p3 p4 p5 p6).hour.toNat = p3.toNat % 128 := by
  simp only [dateTimeOf, BitVec.extractLsb'_toNat, Nat.shiftRight_zero]

theorem dateTimeOf_dstFlag (p1 p2 p3 p4 p5 p6 : Byte) :
    (dateTimeOf p1 p2 p3 p4 p5 p6).dstFlag.toNat = p3.toNat / 128 := by
  have := p3.isLt
  simp only [dateTimeOf, BitVec.extractLsb'_toNat, Nat.shiftRight_eq_div_pow]
  omega

theorem dateTimeOf_dayOfWeek (p1 p2 p3 p4 p5 p6 : Byte) :
    (dateTimeOf p1 p2 p3 p4 p5 p6).dayOfWeek.toNat = p4.toNat / 32 := by
  have := p4.isLt
  simp only [dateTimeOf, BitVec.extractLsb'_toNat, Nat.shiftRight_eq_div_pow]
  omega

theorem dateTimeOf_dayOfMonth (p1 p2 p3 p4 p5 p6 : Byte) :
    (dateTimeOf p1 p2 p3 p4 p5 p6).dayOfMonth.toNat = p4.toNat % 32 := by
  simp only [dateTimeOf, BitVec.extractLsb'_toNat, Nat.shiftRight_zero]

/-- The year does not wrap in its 12 bits (30_encoding.md R79). -/
theorem dateTimeOf_year (p1 p2 p3 p4 p5 p6 : Byte) :
    (dateTimeOf p1 p2 p3 p4 p5 p6).year.toNat = 2000 + p6.toNat := by
  have := p6.isLt
  simp only [dateTimeOf, BitVec.toNat_add, BitVec.toNat_setWidth, BitVec.toNat_ofNat]
  omega

theorem decodeDateTime_leadingZero (p1 p2 p3 p4 p5 p6 : Byte) (rest : List Byte) :
    decodeDateTime (0#8 :: p1 :: p2 :: p3 :: p4 :: p5 :: p6 :: rest) = .ok (dateTimeOf p1 p2 p3 p4 p5 p6) :=
  rfl

theorem zeroAddr_of_ok {d : DateTime} (h : decodeDateTime g.payload = .ok d) (s : State) :
    exec (.zeroAddr g) s = .next (logged (.dateTime d) s) := by
  simp only [exec, execZeroAddr, h]
  rfl

/-- Settles O36: the decode succeeds, and its fields are shifts and remainders of the bytes. -/
theorem dateTimeIsDecoded : Obligations.DateTimeIsDecoded := by
  intro s g p1 p2 p3 p4 p5 p6 rest hp
  have hok : decodeDateTime g.payload = .ok (dateTimeOf p1 p2 p3 p4 p5 p6) := by
    rw [hp, decodeDateTime_leadingZero]
  exact ⟨_, zeroAddr_of_ok hok s, dateTimeOf_second .., rfl, dateTimeOf_hour .., dateTimeOf_dstFlag ..,
    dateTimeOf_dayOfWeek .., dateTimeOf_dayOfMonth .., rfl, dateTimeOf_year ..⟩

/-! The failed decode. -/

/-- The leading byte is looked at only in a payload that is long enough (44_interpreter.md R139). -/
theorem decodeDateTime_leadingNonzero (hlen : 7 ≤ p.length) (hhead : p.head? = some p0) (hne : p0 ≠ 0#8) :
    decodeDateTime p = .error { cause := .leadingNonzero, expected := 0#8, actual := p0 } := by
  match p, hlen with
  | _ :: _ :: _ :: _ :: _ :: _ :: _ :: _, _ =>
    cases hhead
    exact if_neg hne

/-- A failed decode emits its diagnostic, and the policy decides whether the generic record is logged
(44_interpreter.md R141). -/
theorem zeroAddr_of_error (h : decodeDateTime g.payload = .error f) (s : State) :
    exec (.zeroAddr g) s = .next
      (if s.cfg.dtFailKeepsGeneric then logged (.generic g) (emitDiag (diagOf f.cause f.expected f.actual 0#9) s)
       else emitDiag (diagOf f.cause f.expected f.actual 0#9) s) := by
  simp only [exec, execZeroAddr, h, failDecode, raise_payloadFormat _ (decodeDateTime_error h)]
  rfl

/-- What ZERO_ADDR answers under each value of the policy, where it fails with diagnostic `d`. -/
def FailsByPolicy (g : Generic) (d : Diag) (s : State) : Prop :=
  (s.cfg.dtFailKeepsGeneric = false → exec (.zeroAddr g) s = .next (emitDiag d s)) ∧
  (s.cfg.dtFailKeepsGeneric = true → exec (.zeroAddr g) s = .next (logged (.generic g) (emitDiag d s)))

theorem failsByPolicy_of_error (h : decodeDateTime g.payload = .error f) (s : State) :
    FailsByPolicy g (diagOf f.cause f.expected f.actual 0#9) s :=
  ⟨fun hc => by simp [zeroAddr_of_error h, hc], fun hc => by simp [zeroAddr_of_error h, hc]⟩

/-- Settles O37: the decode fails with the cause of the first check that fails, and the policy does the rest. -/
theorem failedDateTimeDecodeFollowsThePolicy : Obligations.FailedDateTimeDecodeFollowsThePolicy := by
  refine fun s g => ⟨?short, ?nonzero⟩
  case short =>
    rintro hlen _ rfl
    exact failsByPolicy_of_error (decodeDateTime_short hlen) s
  case nonzero =>
    rintro hlen p0 _ hhead hne rfl
    exact failsByPolicy_of_error (decodeDateTime_leadingNonzero hlen hhead hne) s

end Sys2Proof.Machine
end

section
/-! PROOFS of 60_exceptions.md: the raise action (R151), the effect of each kind of error (R150, R152, R153), and that
no error stops the core (R154). -/

namespace Sys2Proof.Machine

variable {s t : State}

/-! The effect of an error. -/

/-- Settles O38: the raise action of each kind, with `failedWith` as a full reset after OUT_DIAG is set. -/
theorem raiseFollowsTheKind : Obligations.RaiseFollowsTheKind := by
  intro c e a p s
  refine ⟨?reset, fun h => raise_payloadFormat s h e a p, fun h => raise_bitSync s h e a p⟩
  case reset =>
    rintro (h | h)
    · exact raise_framing s h e a p
    · exact raise_frameGrammar s h e a p

/-- A diagnostic of `t` has had the effect of its kind on `s`: kinds 1 and 2 reset fully and keep LOG, kind 3 comes
with a telegram, and kind 0 is silent (60_exceptions.md R149, R150, R152, R153). -/
def ErrorTookEffect (s t : State) : Prop :=
  ∀ d, t.out.diag = some d →
    d.kind ≠ 0#2 ∧ (d.kind = 1#2 ∨ d.kind = 2#2 → fullReset t = t ∧ t.log = s.log) ∧
    (d.kind = 3#2 → t.out.tg ≠ none)

theorem errorTookEffect_of_noDiag (h : t.out.diag = none) : ErrorTookEffect s t := by
  intro d hd
  simp [h] at hd

theorem errorTookEffect_failedWith {d : Diag} (hkind : d.kind = 1#2 ∨ d.kind = 2#2) :
    ErrorTookEffect s (failedWith d s) := by
  intro e he
  cases he
  obtain ⟨h0, h3⟩ : d.kind ≠ 0#2 ∧ d.kind ≠ 3#2 := by rcases hkind with h | h <;> simp [h]
  exact ⟨h0, fun _ => ⟨rfl, rfl⟩, fun h => absurd h h3⟩

theorem errorTookEffect_of_payloadFormat {d : Diag} (hd : t.out.diag = some d) (hkind : d.kind = 3#2)
    (htg : t.out.tg ≠ none) : ErrorTookEffect s t := by
  intro e he
  cases hd.symm.trans he
  simp [hkind, htg]

theorem acceptByte_errorTookEffect {v : Byte} (hd : s.out.diag = none) (h : acceptByte v s = .next t) :
    ErrorTookEffect s t := by
  obtain ⟨-, rfl | ⟨d, rfl, hkind⟩ | ⟨-, -, h⟩⟩ := acceptByte_cases h
  · exact errorTookEffect_of_noDiag hd
  · exact errorTookEffect_failedWith (.inr hkind)
  · obtain ⟨o, ho, -, htg, -, hdiag⟩ := interpret_next (buildTelegram (appended v s)) (stopped v s)
    rw [ho] at h
    cases h
    rcases hdiag with hdiag | ⟨d, hdiag, hkind, -⟩
    · exact errorTookEffect_of_noDiag (hdiag.trans hd)
    · exact errorTookEffect_of_payloadFormat hdiag hkind (by simp [htg, stopped])

theorem deliverBit_errorTookEffect {b : Bit} (hd : s.out.diag = none) (h : deliverBit b s = .next t) :
    ErrorTookEffect s t := by
  obtain ⟨-, rfl⟩ | ⟨-, ⟨d, rfl, hkind, -⟩ | h⟩ := deliverBit_cases h
  · exact errorTookEffect_of_noDiag hd
  · exact errorTookEffect_failedWith (.inl hkind)
  · exact acceptByte_errorTookEffect (s := framed _ (pushBit b s)) hd h

theorem runSample_errorTookEffect {x : Bit} (hd : s.out.diag = none) (h : runSample x s = .next t) :
    ErrorTookEffect s t := by
  obtain ⟨-, rfl | ⟨-, rfl⟩ | ⟨-, rfl⟩⟩ | ⟨-, ⟨-, rfl⟩ | ⟨-, rfl | rfl⟩⟩ | ⟨-, ⟨-, rfl⟩ | ⟨-, h⟩⟩ :=
    runSample_cases h
  case inr.inr.inr => exact deliverBit_errorTookEffect (s := setSlicer s.slState 0#8 0#8 s) hd h
  all_goals exact errorTookEffect_of_noDiag hd

/-- Settles O41: NOP and RESET give no diagnostic, and an INGEST gives the one its sample raises. -/
theorem failuresResetEveryRegister : Obligations.FailuresResetEveryRegister := by
  intro s t d h
  suffices heffect : ErrorTookEffect s t from heffect d
  obtain ⟨-, -, ⟨x, -, -, rfl⟩ | ⟨x, -, -, h⟩ | ⟨y, x, -, -, rfl⟩⟩ := step_cases h
  · exact errorTookEffect_of_noDiag rfl
  · simpa [ErrorTookEffect] using runSample_errorTookEffect (s := clearOut (atStart s)) rfl h
  · exact errorTookEffect_of_noDiag rfl

/-! What a sample leaves alone. -/

/-- No layer writes the configuration or the host's inputs: neither is a register (10_state.md R18). -/
theorem deliverBit_keeps_session {b : Bit} (h : deliverBit b s = .next t) :
    t.cfg = s.cfg ∧ t.inputs = s.inputs := by
  obtain ⟨-, rfl⟩ | ⟨-, ⟨d, rfl, -⟩ | h⟩ := deliverBit_cases h
  · exact ⟨rfl, rfl⟩
  · exact ⟨rfl, rfl⟩
  · obtain ⟨-, -, -, hcfg, hin, -⟩ := acceptByte_framed_ends h
    exact ⟨hcfg, hin⟩

theorem runSample_keeps_session {x : Bit} (h : runSample x s = .next t) :
    t.cfg = s.cfg ∧ t.inputs = s.inputs := by
  obtain ⟨-, rfl | ⟨-, rfl⟩ | ⟨-, rfl⟩⟩ | ⟨-, ⟨-, rfl⟩ | ⟨-, rfl | rfl⟩⟩ | ⟨-, ⟨-, rfl⟩ | ⟨-, h⟩⟩ :=
    runSample_cases h
  case inr.inr.inr => exact deliverBit_keeps_session (s := setSlicer s.slState 0#8 0#8 s) h
  all_goals exact ⟨rfl, rfl⟩

/-- Without a byte there is no telegram and so no record, and without an error either the buffer is not cleared. -/
theorem runSample_keeps_telegram_registers {x : Bit} (hs : s.out = {}) (h : runSample x s = .next t)
    (hbyte : t.out.byte = none) (hdiag : t.out.diag = none) :
    t.frBuf = s.frBuf ∧ t.frPos = s.frPos ∧ t.log = s.log := by
  obtain ⟨htg, hrec, -⟩ := runSample_outputsRelated hs h
  obtain ⟨hlog, -⟩ := runSample_logsItsRecord hs h
  have hnotg : t.out.tg = none := by_contra fun hne => htg hne hbyte
  have hnorec : t.out.record = none := by_contra fun hne => hrec hne hnotg
  have hkept : t.log = s.log := by simpa [hnorec] using hlog
  obtain ⟨hbuf, hpos, -⟩ | ⟨v, hv, -⟩ | ⟨-, -, hne | ⟨d, hd, -⟩⟩ := runSample_movesBuffer hs h
  · exact ⟨hbuf, hpos, hkept⟩
  · simp [hv] at hbyte
  · exact absurd hnotg hne
  · simp [hd] at hdiag

/-! No operation stops the core. -/

theorem deliverBit_completes (hn : s.baN.toNat ≤ 9) (h : FramerInv s) (b : Bit) :
    ∃ t, deliverBit b s = .next t := by
  rcases Nat.le_succ_iff.mp hn with h8 | h9
  · exact ⟨_, deliverBit_of_baN_le_eight h8 b⟩
  · rw [deliverBit_of_baN_eq_nine h9]
    exact baComplete_completes h b

/-- Each slicer state that R34 allows has a row for any sample (70_reset_and_hazards.md R171), and in SAMPLE the bit it
delivers has a row too. -/
theorem ingest_completes (hs : Inv s) (x : Bit) : ∃ t, exec (.ingest x) s = .next t := by
  obtain ⟨-, ⟨-, -, hsample, hreserved⟩, hfr, -⟩ := hs
  have hst : s.slState = slSearch ∨ s.slState = slConfirm ∨ s.slState = slSample ∨ s.slState = 0b11#2 := by
    generalize s.slState = w; revert w; decide
  rcases hst with hst | hst | hst | hst
  · obtain ⟨hidle, hstart, hstart1⟩ := sampleInSearch s x hst
    rcases bit_cases x with hx | hx
    · by_cases hn : s.cfg.n = 1
      · exact ⟨_, hstart1 hx hn⟩
      · exact ⟨_, hstart hx hn⟩
    · exact ⟨_, hidle hx⟩
  · obtain ⟨hacc, hok, hfail⟩ := sampleInConfirm s x hst
    by_cases hlast : s.slCnt.toNat + 1 = s.cfg.n
    · rcases Nat.lt_or_ge (2 * (s.slOnes.toNat + x.toNat)) s.cfg.n with hlt | hle
      · exact ⟨_, hok hlast hlt⟩
      · exact ⟨_, hfail hlast hle⟩
    · exact ⟨_, hacc hlast⟩
  · obtain ⟨-, -, hn, -⟩ := hsample hst
    by_cases hlast : s.slCnt.toNat + 1 = s.cfg.n
    · rw [ingest_sampleDecide hst hlast]
      exact deliverBit_completes (s := setSlicer s.slState 0#8 0#8 (clearOut s)) hn (framerInv_congr rfl rfl hfr) _
    · exact ⟨_, ingest_sampleAcc hst hlast x⟩
  · exact absurd hst hreserved

/-- Settles O44: INGEST completes, and then does what its sample does from cleared outputs. -/
theorem sampleAlwaysCompletes : Obligations.SampleAlwaysCompletes := by
  intro s x hs
  obtain ⟨t, ht⟩ := ingest_completes hs x
  have hrun : runSample x (clearOut s) = .next t := ht
  obtain ⟨hcfg, hin⟩ := runSample_keeps_session hrun
  obtain ⟨hlog, -⟩ := runSample_logsItsRecord rfl hrun
  exact ⟨t, ht, hcfg, hin, hlog, runSample_keeps_telegram_registers (s := clearOut s) rfl hrun⟩

theorem exec_decodeOp_completes (hs : Inv s) (w : BitVec 3) : ∃ t, exec (decodeOp w) s = .next t := by
  obtain ⟨x, hop⟩ | ⟨x, hop⟩ | ⟨y, x, hop⟩ := decodeOp_cases w <;> rw [hop]
  · exact ⟨_, rfl⟩
  · exact ingest_completes hs x
  · exact ⟨_, rfl⟩

/-- From a state of a run, only a configuration change can be refused (60_exceptions.md R154). -/
theorem step_completes (hs : Inv s) (hc : NoConfigChange s) : ∃ t, step s = .next t := by
  obtain ⟨hl, hsl, -⟩ := id hs
  obtain ⟨-, -, -, hreserved⟩ := id hsl
  rw [step_of_same_cfg hreserved hl (.inl hc)]
  exact exec_decodeOp_completes (s := takeInput s) (inv_of_slicerInv hs rfl rfl rfl rfl hsl) _

theorem step_takes_input (h : step s = .next t) : t.inputs = s.inputs.tail := by
  obtain ⟨-, -, ⟨x, -, -, rfl⟩ | ⟨x, -, -, h⟩ | ⟨y, x, -, -, rfl⟩⟩ := step_cases h
  · simp
  · obtain ⟨-, hin⟩ := runSample_keeps_session h
    simpa using hin
  · simp

theorem noConfigChange_of_inputs (h : ∀ i ∈ s.inputs, i.cfg = none) : NoConfigChange s := by
  cases hi : s.inputs with
  | nil => rw [NoConfigChange, nextInput_of_nil hi]
  | cons i rest =>
    rw [NoConfigChange, nextInput_of_cons hi]
    exact h i (by simp [hi])

/-- Settles O49, by induction on the steps: each completes, keeps the invariant, and only takes inputs away. -/
theorem noErrorStopsTheCore : Obligations.NoErrorStopsTheCore := by
  intro s k hs hc
  induction k generalizing s with
  | zero => exact ⟨s, rfl⟩
  | succ k ih =>
    obtain ⟨u, hu⟩ := step_completes hs (noConfigChange_of_inputs hc)
    rw [runSteps_succ hu]
    refine ih u (step_keeps_inv hs hu) fun i hi => hc i ?_
    rw [step_takes_input hu] at hi
    exact List.mem_of_mem_tail hi

end Sys2Proof.Machine
end

section
/-! PROOFS of 70_reset_and_hazards.md: a configuration changes only with a RESET (R170), and the samples of a telegram
on the wire (R180). -/

namespace Sys2Proof.Machine

variable {s t : State}

/-! A configuration asked for. -/

theorem isResetWord_iff {w : BitVec 3} : isResetWord w = true ↔ w &&& 0b100#3 = 0b100#3 := by
  revert w; decide

/-- Another configuration asked for needs a RESET, and then must be in range (00_scope.md R16). -/
theorem inputRefusal_of_change {i : HostInput} {c : Cfg} (hl : s.cfg.Legal) (hc : i.cfg = some c) (hne : c ≠ s.cfg) :
    inputRefusal i s = if isResetWord i.op then (if c.Legal then none else some .configOutOfRange)
      else some .configChangeWithoutReset := by
  simp only [inputRefusal, if_pos hl, hc, if_neg hne]

theorem step_of_inputRefusal {r : Refusal} (hst : s.slState ≠ 0b11#2) (h : inputRefusal (nextInput s) s = some r) :
    step s = .refused r := by
  refine step_of_refused ?_
  simp only [stepRefusal, stateRefusal, if_neg hst, h]

/-- A RESET that nothing refuses leaves a new session with the configuration asked for, but for LOG and the inputs. -/
theorem step_reset_unrefused (h : stepRefusal (nextInput s) s = none)
    (hw : (nextInput s).op &&& 0b100#3 = 0b100#3) : step s = .next (resetWith {} (atStart s)) := by
  obtain ⟨-, -, hdecode, -⟩ := everyOperationWordDecodes (nextInput s).op
  rw [step_of_unrefused h, hdecode hw]
  rfl

theorem atStart_cfg_of_none (h : (nextInput s).cfg = none) : (atStart s).cfg = s.cfg := by
  simp only [atStart, latchConfig, h]
  rfl

theorem atStart_cfg_of_some {c : Cfg} (h : (nextInput s).cfg = some c) : (atStart s).cfg = c := by
  simp only [atStart, latchConfig, h]

/-- NOP and INGEST keep the configuration, and a RESET leaves the one asked for. -/
theorem cfg_asked_of_step_changes_cfg (h : step s = .next t) (hne : t.cfg ≠ s.cfg) :
    (nextInput s).cfg = some t.cfg ∧ (nextInput s).op &&& 0b100#3 = 0b100#3 := by
  obtain ⟨-, -, ⟨x, -, hcfg, rfl⟩ | ⟨x, -, hcfg, h⟩ | ⟨y, x, hop, -, rfl⟩⟩ := step_cases h
  · exact absurd hcfg hne
  · obtain ⟨hkept, -⟩ := runSample_keeps_session h
    exact absurd (hkept.trans hcfg) hne
  · refine ⟨?_, op_of_decodeOp_reset hop⟩
    cases hc : (nextInput s).cfg with
    | none => exact absurd (atStart_cfg_of_none hc) hne
    | some c => exact congrArg some (atStart_cfg_of_some hc).symm

/-- Settles O14: another configuration asked for is refused unless a RESET brings it in range, and then the next state
is a new session with it; a session out of range is refused; and no other operation changes the configuration. -/
theorem configurationChangesOnlyWithReset : Obligations.ConfigurationChangesOnlyWithReset := by
  refine ⟨fun s w c rest hst hl hin => ?_, fun s hst hl => step_of_inputRefusal hst (if_neg hl),
    fun s t => cfg_asked_of_step_changes_cfg⟩
  have hi : nextInput s = { op := w, cfg := some c } := nextInput_of_cons hin
  have hchange := inputRefusal_of_change hl (congrArg HostInput.cfg hi)
  refine ⟨fun hne hw hc => ?_, fun hne hw hc => step_of_inputRefusal hst ?_,
    fun hne hw => step_of_inputRefusal hst ?_⟩
  · have hadmitted : inputRefusal (nextInput s) s = none := by
      rw [hchange hne, hi, if_pos (isResetWord_iff.mpr hw), if_pos hc]
    rw [step_reset_unrefused (stepRefusal_eq_none.mpr ⟨hst, hadmitted⟩) (by rwa [hi])]
    simp [resetWith, State.create, atStart_cfg_of_some, hi, hin]
  · rw [hchange hne, hi, if_pos (isResetWord_iff.mpr hw), if_neg hc]
  · have hword : ¬ isResetWord w = true := by simp [isResetWord_iff, hw]
    rw [hchange hne, hi, if_neg hword]

/-! No layer reads what the host presents next: the rows of a verified byte do the same whatever it is. -/

/-- The same state with `ops` presented for the next steps. -/
def withInputs (ops : List HostInput) (s : State) : State := { s with inputs := ops }

/-- `f` does the same whatever the host presents for the next steps, and leaves it. -/
def IgnoresInputs (f : State → Result) : Prop :=
  ∀ (ops : List HostInput) (s : State), f (withInputs ops s) = mapNext (withInputs ops) (f s)

theorem interpret_ignoresInputs (g : Generic) : IgnoresInputs (interpret g) := by
  intro ops s
  rw [interpret_eq_exec, interpret_eq_exec]
  cases interpreterRow g with
  | nonzeroAddr => rfl
  | zeroAddr =>
    change exec (.zeroAddr g) _ = mapNext _ (exec (.zeroAddr g) s)
    cases hd : decodeDateTime g.payload with
    | ok d =>
      rw [zeroAddr_of_ok hd, zeroAddr_of_ok hd]
      rfl
    | error f =>
      rw [zeroAddr_of_error hd, zeroAddr_of_error hd]
      refine congrArg Host.Outcome.next ?_
      rw [apply_ite (withInputs ops)]
      rfl

theorem accepted_ignoresInputs {check : State → Result} (h : IgnoresInputs check) (v : Byte) :
    IgnoresInputs fun s => accepted v s check := by
  intro ops s
  by_cases hroom : s.frBuf.length < 261
  · simp only [accepted_of_room s hroom, accepted_of_room (withInputs ops s) hroom]
    exact h ops (appended v s)
  · simp only [accepted_full s (Nat.not_lt.mp hroom), accepted_full (withInputs ops s) (Nat.not_lt.mp hroom)]
    rfl

/-- Each row's checks read the buffer and the byte, which the pending inputs are no part of. -/
theorem framerRow_ignoresInputs (r : FramerRow) (v : Byte) : IgnoresInputs (exec (r.instr v)) := by
  cases r with
  | p2 | body => exact accepted_ignoresInputs (fun _ _ => rfl) v
  | p1 | p3 | p4 | csum =>
    refine accepted_ignoresInputs (fun ops u => ?_) v
    simp only [apply_ite (mapNext (withInputs ops))]
    rfl
  | stop =>
    refine accepted_ignoresInputs (fun ops u => ?_) v
    rw [apply_ite (mapNext (withInputs ops)), ← interpret_ignoresInputs]
    rfl

theorem acceptByte_ignoresInputs (v : Byte) : IgnoresInputs (acceptByte v) := by
  intro ops s
  cases hr : framerRow (s.frPos.toNat + 1) (lengthByte s) with
  | none =>
    rw [acceptByte_of_noRow hr, acceptByte_of_noRow (s := withInputs ops s) hr]
    rfl
  | some r =>
    rw [acceptByte_eq_exec hr, acceptByte_eq_exec (s := withInputs ops s) hr]
    exact framerRow_ignoresInputs r v ops s

/-! Bytes on the wire. -/

/-- Between two byte-frames, under a legal configuration: SEARCH with its counters at 0 and an empty assembler
(10_state.md R34). -/
def BetweenByteFrames (s : State) : Prop :=
  s.cfg.Legal ∧ s.slState = slSearch ∧ s.slCnt = 0#8 ∧ s.slOnes = 0#8 ∧ s.baN = 0#4 ∧ s.baBits = 0#10

/-- What the host presents for the bytes `vs` (30_encoding.md R87). -/
def frameInputs (n : Nat) (vs : List Byte) : List HostInput := (byteFrames n vs).map fun w => { op := w }

theorem frameInputs_cons (n : Nat) (v : Byte) (vs : List Byte) :
    frameInputs n (v :: vs) = (byteFrame n v).map (fun w => ({ op := w } : HostInput)) ++ frameInputs n vs := by
  simp [frameInputs, byteFrames]

/-- A correct byte-frame delivers its byte in the step of its last sample, and the rest of the input waits
(41_bitslicer.md R111). -/
theorem runSteps_byteFrame (hs : BetweenByteFrames s) (v : Byte) (rest : List HostInput) :
    runSteps (11 * s.cfg.n)
        (withInputs ((byteFrame s.cfg.n v).map (fun w => ({ op := w } : HostInput)) ++ rest) s) =
      mapNext (withInputs rest) (acceptByte v (framed v (clearOut s))) := by
  obtain ⟨hl, hst, hc, ho, hbn, hbb⟩ := hs
  have heven : ¬ (popcount v + (parityBit v).toNat) % 2 = 1 := by rw [parityBit_toNat]; omega
  refine (byteFrameIsReadInElevenNSamples s v (parityBit v) 1#1 rest hl hst hc ho hbn hbb).trans ?_
  rw [completionRow_instr_append, if_neg (by decide), if_neg heven]
  exact acceptByte_ignoresInputs v rest (framed v (clearOut s))

theorem exists_of_deliverBytes_cons {v : Byte} {vs : List Byte} (h : deliverBytes (v :: vs) s = .next t) :
    ∃ u, acceptByte v (framed v (clearOut s)) = .next u ∧ deliverBytes vs u = .next t := by
  simp only [deliverBytes] at h
  split at h
  · next u hu => exact ⟨u, hu, h⟩
  · cases h
  · cases h

theorem betweenByteFrames_of_ended (hs : BetweenByteFrames s) (h : ByteFrameEnded s t) : BetweenByteFrames t := by
  obtain ⟨hl, -, hc, ho, -⟩ := hs
  obtain ⟨hst, hbn, hbb, hcfg, -, hcnt, hones⟩ := h
  exact ⟨hcfg ▸ hl, hst, hcnt hc, hones ho, hbn, hbb⟩

/-- Byte-frames with nothing between them deliver their bytes one after another. -/
theorem runSteps_byteFrames {vs : List Byte} (hs : BetweenByteFrames s) (h : deliverBytes vs s = .next t)
    (rest : List HostInput) :
    runSteps (vs.length * (11 * s.cfg.n)) (withInputs (frameInputs s.cfg.n vs ++ rest) s) =
      .next (withInputs rest t) := by
  induction vs generalizing s with
  | nil =>
    cases h
    rw [List.length_nil, Nat.zero_mul]
    rfl
  | cons v vs ih =>
    obtain ⟨u, hu, hrest⟩ := exists_of_deliverBytes_cons h
    have hended : ByteFrameEnded s u := acceptByte_framed_ends (s := clearOut s) hu
    obtain ⟨-, -, -, hcfg, -⟩ := id hended
    have hframe := runSteps_byteFrame hs v (frameInputs s.cfg.n vs ++ rest)
    rw [hu] at hframe
    rw [frameInputs_cons, List.append_assoc, List.length_cons, Nat.succ_mul, Nat.add_comm, runSteps_add hframe,
      ← hcfg]
    exact ih (betweenByteFrames_of_ended hs hended) hrest

/-! The telegram. -/

theorem fullReset_eq_self_iff : fullReset s = s ↔
    s.slState = slSearch ∧ s.slCnt = 0#8 ∧ s.slOnes = 0#8 ∧ s.baN = 0#4 ∧ s.baBits = 0#10 ∧
    s.frPos = 0#9 ∧ s.frBuf = [] := by
  constructor
  · intro h
    rw [← h]
    exact ⟨rfl, rfl, rfl, rfl, rfl, rfl, rfl⟩
  · cases s
    rintro ⟨rfl, rfl, rfl, rfl, rfl, rfl, rfl⟩
    rfl

theorem telegramBytes_length (b4 a1 a2 : Byte) (payload : List Byte) :
    (telegramBytes b4 a1 a2 payload).length = 6 + (payload.length + 3) := by
  simp [telegramBytes]
  omega

/-- Settles O54: the byte-frames deliver the telegram's bytes, and the stop character leaves its record in LOG and the
reset registers. -/
theorem telegramOnTheWireIsLogged : Obligations.TelegramOnTheWireIsLogged := by
  intro s b4 a1 a2 payload rest g hl hlen hreset hg
  obtain ⟨hst, hc, ho, hbn, hbb, hp, hb⟩ := fullReset_eq_self_iff.mp hreset
  obtain ⟨o, hnext, -, htg, hrec, -⟩ := interpret_next g (completed g (arriving 0x16#8 [] s))
  have hbytes := (deliverBytes_telegramBytes hp hb hlen rfl hg).trans hnext
  have hrun := runSteps_byteFrames ⟨hl, hst, hc, ho, hbn, hbb⟩ hbytes rest
  rw [telegramBytes_length] at hrun
  exact ⟨_, hrun, htg, hrec rfl, rfl, fullReset_eq_self_iff.mpr ⟨rfl, hc, ho, rfl, rfl, rfl, rfl⟩, rfl⟩

end Sys2Proof.Machine
end
